-- ==== Sys2Proof/Word.lean ====
section
/-! DEFINITION. The two fixed widths of CRC8V (00_scope.md R6). All values are unsigned (R8). -/

namespace Sys2Proof

/-- A data byte, a checksum, a word count, a word index or the error index: 8 bits (R6). -/
abbrev Byte := BitVec 8

/-- A data word, a command word or a response word: 16 bits (R6). -/
abbrev Word := BitVec 16

end Sys2Proof
end

