-- ==== Sys2Proof/Config.lean ====
section
/-! DEFINITION. The implementation parameters of CRC8V (00_scope.md R5 and R11). The spec has no undefined
value (92_eei_decisions.md D25), so there is no free value here. -/

namespace Sys2Proof

/-- CMD_ACCEPT (R11): how the command port keeps to one command a step. An untimed model takes it and ignores it. -/
inductive CmdAccept where
  /-- The block holds off the host until the last command's effect is complete. -/
  | stall
  /-- The host does not issue a command until the last one is complete. -/
  | hostWaits
  deriving DecidableEq, Repr

/-- The parameters a model takes as an argument. -/
structure Params where
  /-- MAX_WORDS (R5): the number of entries of WBUF, and the largest word count of a frame. -/
  maxWords : Nat
  /-- CMD_ACCEPT (R11). -/
  cmdAccept : CmdAccept
  deriving DecidableEq, Repr

/-- R5: `16 <= MAX_WORDS <= 255`. -/
def Params.wf (P : Params) : Bool :=
  decide (16 ≤ P.maxWords) && decide (P.maxWords ≤ 255)

/-- The reference value of R5, MAX_WORDS = 16. DESIGN CHOICE (log entry 1): CMD_ACCEPT = STALL, which no step reads. -/
def Params.reference : Params := { maxWords := 16, cmdAccept := .stall }

end Sys2Proof
end

