-- ==== Sys2Proof/Syntax.lean ====
section
/-! DEFINITION. The nine commands of CRC8V, one constructor per row of spec/opcode_table.json (30_encoding.md R72). -/

namespace Sys2Proof

/-- A legal command. The operand is the ARG field, an unsigned byte (R71). -/
inductive Instr where
  /-- NOP (42_readout.md R150). -/
  | nop
  /-- CRC_INIT (40_crc.md R103). -/
  | crcInit
  /-- CRC_BYTE b (40_crc.md R104): b is a data byte. -/
  | crcByte (b : Byte)
  /-- CRC_READ (40_crc.md R105). -/
  | crcRead
  /-- FRAME_START n (41_frame.md R122): n is a word count. -/
  | frameStart (n : Byte)
  /-- FRAME_BYTE b (41_frame.md R123): b is a data byte. -/
  | frameByte (b : Byte)
  /-- FRAME_ABORT (41_frame.md R124). -/
  | frameAbort
  /-- STATUS_READ (42_readout.md R151). -/
  | statusRead
  /-- WORD_READ i (42_readout.md R152): i is a word index. -/
  | wordRead (i : Byte)
  deriving DecidableEq, Repr

end Sys2Proof
end

