-- ==== Sys2Proof/WellFormed.lean ====
section
/-! DEFINITION. Which instructions a legal command word stands for (30_encoding.md R71 and R73). -/

namespace Sys2Proof

/-- The one operand constraint of the opcode table: a word count is at most MAX_WORDS. Every other operand is any byte. -/
def wellFormed (P : Params) (i : Instr) : Bool :=
  match i with
  | .nop => true
  | .crcInit => true
  | .crcByte _ => true
  | .crcRead => true
  | .frameStart n => decide (n.toNat ≤ P.maxWords)
  | .frameByte _ => true
  | .frameAbort => true
  | .statusRead => true
  | .wordRead _ => true

end Sys2Proof
end

