-- ==== Sys2Proof/Decode.lean ====
section
/-! DEFINITION. The decoder of 30_encoding.md R79, total on every 16-bit word and rejecting by name, and after it the
encoder of R77 and R79, written from the opcode map of R72. -/

namespace Sys2Proof

/-- Why a command word is illegal: the four cases of R74. -/
inductive IllegalReason where
  /-- RSV, bits [11:8], is not 0. -/
  | rsvNonzero
  /-- OP is in 0x9..0xF. -/
  | opReserved
  /-- A zero-operand command has ARG other than 0. -/
  | argNonzero
  /-- FRAME_START has ARG above MAX_WORDS. -/
  | countAboveMax
  deriving DecidableEq, Repr

/-- What a command word reads as. -/
inductive Decoded where
  | legal (i : Instr)
  | illegal (why : IllegalReason)
  deriving DecidableEq, Repr

/-- OP = w[15:12] (R70). -/
def fieldOp (w : Word) : BitVec 4 := w.extractLsb' 12 4

/-- RSV = w[11:8] (R70). -/
def fieldRsv (w : Word) : BitVec 4 := w.extractLsb' 8 4

/-- ARG = w[7:0] (R70, R71). -/
def fieldArg (w : Word) : Byte := w.extractLsb' 0 8

/-- A zero-operand command: legal only with ARG = 0 (R73). -/
def zeroOperand (i : Instr) (arg : Byte) : Decoded :=
  if arg = 0 then .legal i else .illegal .argNonzero

/-- The decoder of R79, with the reason of each refusal. -/
def decodeNamed (P : Params) (w : Word) : Decoded :=
  let arg := fieldArg w
  if fieldRsv w ≠ 0 then .illegal .rsvNonzero
  else match fieldOp w with
    | 0x0#4 => zeroOperand .nop arg
    | 0x1#4 => zeroOperand .crcInit arg
    | 0x2#4 => .legal (.crcByte arg)
    | 0x3#4 => zeroOperand .crcRead arg
    | 0x4#4 => if arg.toNat ≤ P.maxWords then .legal (.frameStart arg) else .illegal .countAboveMax
    | 0x5#4 => .legal (.frameByte arg)
    | 0x6#4 => zeroOperand .frameAbort arg
    | 0x7#4 => zeroOperand .statusRead arg
    | 0x8#4 => .legal (.wordRead arg)
    | _ => .illegal .opReserved

/-- `decode : Params -> UInt16 -> Option Cmd` of R79; `none` is performed as R74. -/
def decode (P : Params) (w : Word) : Option Instr :=
  match decodeNamed P w with
  | .legal i => some i
  | .illegal _ => none

/-- The 16-bit word whose bits are `w`, of which the opcode table gives `nbits`; the bits above are 0. -/
def tableWord (nbits w : Nat) : Word := BitVec.ofNat 16 (w % 2 ^ nbits)

/-- The instruction the decoder reads from a word given as the opcode table numbers its bits, at the reference
parameters. Every command is exactly one word (R76), which the command port takes whole, so no byte order arises. -/
def decodeTableWord (nbits w : Nat) : Option Instr := decode Params.reference (tableWord nbits w)

/-- The operation code of each command (R72). -/
def opcode (i : Instr) : BitVec 4 :=
  match i with
  | .nop => 0x0
  | .crcInit => 0x1
  | .crcByte _ => 0x2
  | .crcRead => 0x3
  | .frameStart _ => 0x4
  | .frameByte _ => 0x5
  | .frameAbort => 0x6
  | .statusRead => 0x7
  | .wordRead _ => 0x8

/-- The ARG field of each command (R72): 0 where it takes no operand. -/
def operand (i : Instr) : Byte :=
  match i with
  | .nop => 0
  | .crcInit => 0
  | .crcByte b => b
  | .crcRead => 0
  | .frameStart n => n
  | .frameByte b => b
  | .frameAbort => 0
  | .statusRead => 0
  | .wordRead i => i

/-- `encode = (OP << 12) | operand` (R77, R79). -/
def encode (i : Instr) : Word :=
  ((opcode i).setWidth 16 <<< 12) ||| (operand i).setWidth 16

end Sys2Proof
end

