-- ==== Sys2Proof/Machine/State.lean ====
section
/-! DEFINITION. The state of CRC8V: the record of 10_state.md R20 whole (`Block`), and around it what the step model of
00_scope.md R7 takes and gives: the parameters, the inputs to come, and the response of the last step. -/

namespace Sys2Proof.Machine

/-- PHASE (R22), 2 bits: the four codes 0 to 3 in this order. -/
inductive Phase where
  /-- 0: no frame is open. -/
  | idle
  /-- 1: a frame is open and triples are still due. -/
  | run
  /-- 2: every triple was valid and the words are readable. -/
  | done
  /-- 3: a triple failed its checksum and no word is readable. -/
  | err
  deriving DecidableEq, Repr

/-- POS (R25), 2 bits: the codes 0, 1, 2 in this order. The code 3 never occurs (R34, I3), so it is no value of this
type (log entry 5). -/
inductive Pos where
  /-- 0: the data-high byte is due. -/
  | high
  /-- 1: the data-low byte is due. -/
  | low
  /-- 2: the checksum byte is due. -/
  | check
  deriving DecidableEq, Repr

/-- The three errors the block records (60_exceptions.md R170). None is a fault: each is a defined state change. -/
inductive BlockError where
  /-- Triple i of the frame failed its checksum (R171). -/
  | checksumError (i : Byte)
  /-- An illegal command word (R172). -/
  | illegalCommand
  /-- A frame byte while none is expected (R173). -/
  | overRun
  deriving DecidableEq, Repr

/-- What reaches the block in one step (00_scope.md R7): a command word, or Reset (70_reset_and_hazards.md R190). -/
inductive Input where
  | command (w : Word)
  | reset
  deriving DecidableEq, Repr

/-- The contents of the one indexed storage, WBUF (20_memory.md R50, R59): entry i is element i. -/
abbrev Memory := List Word

/-- The complete state of the block: exactly the fields of R20. -/
structure Block where
  /-- CRC (R21): standalone CRC accumulator. -/
  crc : Byte
  /-- PHASE (R22): frame engine phase. -/
  phase : Phase
  /-- N (R23): word count of the current frame. -/
  n : Byte
  /-- WIDX (R24): index of the current triple. -/
  widx : Byte
  /-- POS (R25): byte position within the current triple. -/
  pos : Pos
  /-- HI (R26): latched high byte. -/
  hi : Byte
  /-- LO (R26): latched low byte. -/
  lo : Byte
  /-- FCRC (R27): running CRC of the current triple. -/
  fcrc : Byte
  /-- WBUF (R28): MAX_WORDS validated words. -/
  wbuf : Memory
  /-- EIDX (R29): index of the first failing triple. -/
  eidx : Byte
  /-- OVR (R30): sticky over-run flag. -/
  ovr : Bool
  /-- CMDERR (R31): sticky illegal-command flag. -/
  cmderr : Bool
  /-- RDATA (R32): last response word. -/
  rdata : Word
  deriving DecidableEq, Repr

/-- The machine: the block, and the model's own three fields (log entries 1, 2 and 3). -/
structure State where
  /-- The parameters of R5 and R11, which no step writes. -/
  params : Params
  /-- The block's state (R20). -/
  block : Block
  /-- The inputs the host has yet to present, next one first (R7, R61). -/
  port : List Input
  /-- The response word the last step drove, if it drove one (R7, R80). -/
  resp : Option Word
  deriving DecidableEq, Repr

/-- No step of CRC8V faults (00_scope.md R7, 92_eei_decisions.md D25: "No command word, state or reset makes the model
fault, hang or refuse"), so there is no fault: nobody raises one, and that is neither safe nor unsafe. -/
inductive Fault where
  deriving DecidableEq, Repr

/-- Why an instruction has no meaning. -/
inductive Refusal where
  /-- Raised only by an arm of `exec` for an instruction not modelled yet; no arm of this model raises it. Safe. -/
  | notModelled (mnemonic : String)
  deriving DecidableEq, Repr

/-- Every field at the reset value R190 gives it; WBUF has MAX_WORDS entries. -/
def Block.reset (P : Params) : Block where
  crc := 0xFF
  phase := .idle
  n := 0
  widx := 0
  pos := .high
  hi := 0
  lo := 0
  fcrc := 0xFF
  wbuf := List.replicate P.maxWords 0
  eidx := 0
  ovr := false
  cmderr := false
  rdata := 0

/-- The machine right after reset with parameters P: no input waiting, no response driven (R190). -/
def State.resetWith (P : Params) : State where
  params := P
  block := Block.reset P
  port := []
  resp := none

/-- The machine right after reset, at the reference parameters (R5, R190). -/
def State.reset : State := State.resetWith Params.reference

end Sys2Proof.Machine
end

