-- ==== Sys2Proof/Machine/Operands.lean ====
section
/-! DEFINITION. How a command reads its ARG field (30_encoding.md R71), and the two ways bytes become 16-bit values
(00_scope.md R8, 20_memory.md R51). -/

namespace Sys2Proof.Machine

/-- ARG as a word count n: unsigned, neither scaled nor extended by sign (R71). -/
def wordCount (arg : Byte) : Nat := arg.toNat

/-- ARG as a word index i: unsigned (R71). -/
def wordIndex (arg : Byte) : Nat := arg.toNat

/-- `zext_16` of a byte (R8). -/
def zext16 (b : Byte) : Word := b.setWidth 16

/-- `hi ++ lo = (zext_16(hi) << 8) | zext_16(lo)` (R8): big-endian word assembly (R51). -/
def joinBytes (hi lo : Byte) : Word := (zext16 hi <<< 8) ||| zext16 lo

end Sys2Proof.Machine
end

