-- ==== Sys2Proof/Machine/Checksum.lean ====
section
/-! DEFINITION. The two pure functions of the source: the CRC-8 (40_crc.md R100 to R102) and the frame codec
(41_frame.md R120). They read and write no state. -/

namespace Sys2Proof.Machine

/-- One of the eight iterations of R100: shift left, dropping bit 7, and XOR 0x31 if bit 7 was set. -/
def crc8Shift (c : Byte) : Byte :=
  if c.getLsbD 7 then (c <<< 1) ^^^ 0x31#8 else c <<< 1

/-- k iterations. -/
def crc8Shifts (k : Nat) (c : Byte) : Byte :=
  match k with
  | 0 => c
  | k + 1 => crc8Shifts k (crc8Shift c)

/-- `crc8_update(c, b)` (R100). -/
def crc8Update (c b : Byte) : Byte := crc8Shifts 8 (c ^^^ b)

/-- `checksum(s)` (R101): the left fold of crc8_update from 0xFF, over a sequence of any length. -/
def checksum (bytes : List Byte) : Byte := bytes.foldl crc8Update 0xFF#8

/-- What `decode_words` returns (R120). -/
inductive CodecResult where
  | ok (words : List Word)
  | err (i : Nat)
  deriving DecidableEq, Repr

/-- The loop of `decode_words` from group i on, with `left` groups to go and `words` decoded so far (R120). DESIGN CHOICE
(log entry 10): a byte beyond the end of the buffer reads as 0x00, and bytes after the last group are not looked at; the
spec leaves a buffer of another length than 3n open (91_not_in_source.md N6, 00_scope.md R9). -/
def decodeFrom (buf : List Byte) (i left : Nat) (words : List Word) : CodecResult :=
  match left with
  | 0 => .ok words
  | left + 1 =>
    let hi := buf.getD (3 * i) 0
    let lo := buf.getD (3 * i + 1) 0
    let c := buf.getD (3 * i + 2) 0
    if checksum [hi, lo] ≠ c then .err i
    else decodeFrom buf (i + 1) left (words ++ [joinBytes hi lo])

/-- `decode_words(buf, n)`, under its precondition `len(buf) = 3 * n` (R120). For a buffer of another length, which R120 and
91_not_in_source.md N6 leave open, its result is the model's own: DESIGN CHOICE, log entry 10. -/
def decodeWords (buf : List Byte) (n : Nat) : CodecResult := decodeFrom buf 0 n []

end Sys2Proof.Machine
end

