-- ==== Sys2Proof/Machine/Flags.lean ====
section
/-! DEFINITION. The codes of PHASE and POS, and the status word that shows PHASE, OVR, CMDERR and EIDX (10_state.md
R22, R25, R33). There are no arithmetic flags (R38). -/

namespace Sys2Proof.Machine

/-- The 2-bit code of PHASE (R22). -/
def phaseCode (p : Phase) : BitVec 2 :=
  match p with
  | .idle => 0
  | .run => 1
  | .done => 2
  | .err => 3

/-- The 2-bit code of POS (R25). -/
def posCode (p : Pos) : BitVec 2 :=
  match p with
  | .high => 0
  | .low => 1
  | .check => 2

/-- A 1-bit flag as its bit. -/
def flagBit (f : Bool) : BitVec 1 := BitVec.ofBool f

/-- STATUS (R33): EIDX in [15:8], CMDERR in [3], OVR in [2], PHASE in [1:0], and [7:4] read 0. -/
def statusWord (k : Block) : Word :=
  (zext16 k.eidx <<< 8) ||| ((flagBit k.cmderr).setWidth 16 <<< 3) ||| ((flagBit k.ovr).setWidth 16 <<< 2) |||
    (phaseCode k.phase).setWidth 16

end Sys2Proof.Machine
end

