-- ==== Sys2Proof/Machine/Ops.lean ====
section
/-! DEFINITION. The operations the meanings share: recording an error (60_exceptions.md R170 to R175), driving the
response port (00_scope.md R9), reading and writing WBUF (20_memory.md R50), the frame position (10_state.md R24, R25),
and taking an input from the command port (00_scope.md R7). -/

namespace Sys2Proof.Machine

/-- Records an error (R9, R170): the block's only form of an exception. It saves EIDX for a ChecksumError and one sticky
bit for the other two, changes nothing else and redirects nothing (R175). Nothing is trapped, so there is no return (R177). -/
def raise (e : BlockError) (k : Block) : Block :=
  match e with
  | .checksumError i => { k with eidx := i, phase := .err }
  | .illegalCommand => { k with cmderr := true }
  | .overRun => { k with ovr := true }

/-- `respond(v)` (R9): drives v on the response port and writes it to RDATA (10_state.md R32). -/
def respond (v : Word) (s : State) : State :=
  { s with block := { s.block with rdata := v }, resp := some v }

/-- `WBUF[i]` as a source. An index that WBUF lacks reads 0x0000 (log entry 4); WORD_READ reaches none (R152). -/
def readWord (k : Block) (i : Nat) : Word := k.wbuf.getD i 0

/-- `WBUF[i] <- v`. An index that WBUF lacks stores nothing (log entry 4); no reachable state writes one (R34). -/
def writeWord (i : Nat) (v : Word) (k : Block) : Block := { k with wbuf := k.wbuf.set i v }

/-- `(POS + 1) mod 3` (10_state.md R25). -/
def nextPos (p : Pos) : Pos :=
  match p with
  | .high => .low
  | .low => .check
  | .check => .high

/-- `WIDX <- WIDX + 1; POS <- 0`: a triple is complete (10_state.md R24, R25). -/
def nextTriple (k : Block) : Block := { k with widx := k.widx + 1, pos := .high }

/-- The next input on the port, and the state with it taken and no response driven yet; none on an idle port. -/
def takeInput (s : State) : Option (Input × State) :=
  match s.port with
  | [] => none
  | x :: rest => some (x, { s with port := rest, resp := none })

/-- A step of an idle port: the block never steps on its own (R7), so only the response of the last step ends. -/
def idleStep (s : State) : State := { s with resp := none }

/-- Puts a command word on the port, as the next input. -/
def placeCommand (w : Word) (s : State) : State := { s with port := .command w :: s.port }

/-- Reset (70_reset_and_hazards.md R190): every field of the block at its reset value, whatever it held. -/
def resetBlock (s : State) : State := { s with block := Block.reset s.params }

/-- An illegal command word (30_encoding.md R74): `raise IllegalCommand` and nothing else. -/
def illegalWord (s : State) : State := { s with block := raise .illegalCommand s.block }

end Sys2Proof.Machine
end

