-- ==== Sys2Proof/Machine/Crc.lean ====
section
/-! DEFINITION. The checksum engine's commands: CRC_INIT, CRC_BYTE, CRC_READ (40_crc.md R103 to R105). -/

namespace Sys2Proof.Machine

/-- CRC_INIT (R103): `CRC <- 0xFF`. -/
def execCrcInit (s : State) : Host.Outcome State Fault Refusal :=
  .next { s with block := { s.block with crc := 0xFF } }

/-- CRC_BYTE b (R104): `CRC <- crc8_update(CRC, b)`. -/
def execCrcByte (b : Byte) (s : State) : Host.Outcome State Fault Refusal :=
  .next { s with block := { s.block with crc := crc8Update s.block.crc b } }

/-- CRC_READ (R105): `respond(zext_16(CRC))`. -/
def execCrcRead (s : State) : Host.Outcome State Fault Refusal :=
  .next (respond (zext16 s.block.crc) s)

end Sys2Proof.Machine
end

