-- ==== Sys2Proof/Machine/Frame.lean ====
section
/-! DEFINITION. The frame engine's commands: FRAME_START, FRAME_BYTE, FRAME_ABORT (41_frame.md R122 to R124). -/

namespace Sys2Proof.Machine

/-- The state FRAME_START n leaves when n is legal (R122). -/
def openFrame (n : Byte) (k : Block) : Block :=
  { k with
    n := n, widx := 0, pos := .high, fcrc := 0xFF, eidx := 0, ovr := false
    phase := if n = 0 then .done else .run }

/-- FRAME_START n (R122). The count an illegal word would carry changes nothing but CMDERR (R122, R74; log entry 6). -/
def execFrameStart (n : Byte) (s : State) : Host.Outcome State Fault Refusal :=
  .next { s with
    block := if wordCount n ≤ s.params.maxWords then openFrame n s.block else raise .illegalCommand s.block }

/-- The index of WBUF that a valid triple is stored at: WIDX (R123, 20_memory.md R50). -/
def storeIndex (k : Block) : Nat := wordIndex k.widx

/-- R123 at POS 2 in RUN, on a match: store the word, complete the triple, and end the frame after its last one. -/
def acceptTriple (k : Block) : Block :=
  { nextTriple (writeWord (storeIndex k) (joinBytes k.hi k.lo) k) with
    phase := if k.widx + 1 = k.n then .done else k.phase }

/-- R123 at POS 2 in RUN, on a mismatch: the first one of the frame (R125). -/
def rejectTriple (k : Block) : Block :=
  nextTriple (raise (.checksumError k.widx) k)

/-- R123 in ERR with bytes still due: count the byte, do not check it. -/
def drainByte (k : Block) : Block :=
  if k.pos = .check then nextTriple k else { k with pos := nextPos k.pos }

/-- R123 in RUN: latch the high byte, latch the low byte, or check the triple (R121). -/
def triageByte (b : Byte) (k : Block) : Block :=
  match k.pos with
  | .high => { k with hi := b, fcrc := crc8Update 0xFF b, pos := .low }
  | .low => { k with lo := b, fcrc := crc8Update k.fcrc b, pos := .check }
  | .check => if b = k.fcrc then acceptTriple k else rejectTriple k

/-- The pseudocode of R123, by phase. -/
def frameByte (b : Byte) (k : Block) : Block :=
  match k.phase with
  | .idle => raise .overRun k
  | .done => raise .overRun k
  | .err => if k.widx = k.n then raise .overRun k else drainByte k
  | .run => triageByte b k

/-- FRAME_BYTE b (R123). -/
def execFrameByte (b : Byte) (s : State) : Host.Outcome State Fault Refusal :=
  .next { s with block := frameByte b s.block }

/-- The state FRAME_ABORT leaves (R124). -/
def closeFrame (k : Block) : Block :=
  { k with
    phase := .idle, n := 0, widx := 0, pos := .high, fcrc := 0xFF, eidx := 0, ovr := false, cmderr := false }

/-- FRAME_ABORT (R124). -/
def execFrameAbort (s : State) : Host.Outcome State Fault Refusal :=
  .next { s with block := closeFrame s.block }

end Sys2Proof.Machine
end

