-- ==== Sys2Proof/Machine/Readout.lean ====
section
/-! DEFINITION. Status and readout: NOP, STATUS_READ, WORD_READ (42_readout.md R150 to R152). -/

namespace Sys2Proof.Machine

/-- NOP (R150): no state is read or written. -/
def execNop (s : State) : Host.Outcome State Fault Refusal := .next s

/-- STATUS_READ (R151): respond the status word of 10_state.md R33. No flag is cleared. -/
def execStatusRead (s : State) : Host.Outcome State Fault Refusal :=
  .next (respond (statusWord s.block) s)

/-- What WORD_READ i responds (R152): the word in DONE below N, and 0x0000 in every other case. -/
def gatedWord (k : Block) (i : Byte) : Word :=
  if k.phase = .done ∧ i < k.n then readWord k (wordIndex i) else 0

/-- WORD_READ i (R152). -/
def execWordRead (i : Byte) (s : State) : Host.Outcome State Fault Refusal :=
  .next (respond (gatedWord s.block i) s)

end Sys2Proof.Machine
end

