-- ==== Sys2Proof/Machine/Dispatch.lean ====
section
/-! DEFINITION. One arm per command of 30_encoding.md R72, each a call of its meaning. -/

namespace Sys2Proof.Machine

def exec (i : Instr) (s : State) : Host.Outcome State Fault Refusal :=
  match i with
  | .nop => Sys2Proof.Machine.execNop s
  | .crcInit => Sys2Proof.Machine.execCrcInit s
  | .crcByte b => Sys2Proof.Machine.execCrcByte b s
  | .crcRead => Sys2Proof.Machine.execCrcRead s
  | .frameStart n => Sys2Proof.Machine.execFrameStart n s
  | .frameByte b => Sys2Proof.Machine.execFrameByte b s
  | .frameAbort => Sys2Proof.Machine.execFrameAbort s
  | .statusRead => Sys2Proof.Machine.execStatusRead s
  | .wordRead j => Sys2Proof.Machine.execWordRead j s

end Sys2Proof.Machine
end

