-- ==== Sys2Proof/Machine/Step.lean ====
section
/-! DEFINITION. One step (00_scope.md R7): take one input from the port and perform it whole. -/

namespace Sys2Proof.Machine

/-- A legal command is performed by `exec`, an illegal word as 30_encoding.md R74 says, Reset as
70_reset_and_hazards.md R190 says. -/
def step (s : State) : Host.Outcome State Fault Refusal :=
  match takeInput s with
  | none => .next (idleStep s)
  | some (.reset, t) => .next (resetBlock t)
  | some (.command w, t) =>
    match decode t.params w with
    | some i => exec i t
    | none => .next (illegalWord t)

/-- s with the command word, whose bits are `w` as the opcode table numbers them, as the next input on the port. -/
def State.withFetchWord (s : State) (nbits w : Nat) : State := placeCommand (tableWord nbits w) s

end Sys2Proof.Machine
end

