-- ==== Sys2Proof/Machine/Assembler.lean ====
section
/-! DEFINITION. The assembler syntax and the pseudo-instructions (30_encoding.md R77 and R78): the host's side of the
command port. No step reads this file. What R77 leaves open of a line's form is log entry 7. -/

namespace Sys2Proof.Machine

/-- The five pseudo-instructions of R78. -/
inductive Pseudo where
  /-- CHECKSUM b0, ..., bk-1 -/
  | checksum (bytes : List Byte)
  /-- FEED_WORD hi, lo -/
  | feedWord (hi lo : Byte)
  /-- FEED_TRIPLE hi, lo, c -/
  | feedTriple (hi lo c : Byte)
  /-- DECODE n, b0, ..., b3n-1 -/
  | decode (n : Byte) (buf : List Byte)
  /-- READ_WORDS n. DESIGN CHOICE (log entry 7): R78 gives n no range, and the model takes any byte 0..255. -/
  | readWords (n : Byte)
  deriving DecidableEq, Repr

/-- The fixed expansions of R78. -/
def expand (p : Pseudo) : List Instr :=
  match p with
  | .checksum bytes => .crcInit :: bytes.map .crcByte ++ [.crcRead]
  | .feedWord hi lo => [.frameByte hi, .frameByte lo, .frameByte (Sys2Proof.Machine.checksum [hi, lo])]
  | .feedTriple hi lo c => [.frameByte hi, .frameByte lo, .frameByte c]
  | .decode n buf => .frameStart n :: buf.map .frameByte ++ [.statusRead]
  | .readWords n => (List.range n.toNat).map fun i => .wordRead (BitVec.ofNat 8 i)

/-- A blank within a line. -/
def isBlank (c : Char) : Bool := c == ' ' || c == '\t'

/-- A line without its comment: text after `;` (R77). -/
def dropComment (line : List Char) : List Char := line.takeWhile (· != ';')

/-- A text without the blanks at its two ends. -/
def trimBlanks (t : List Char) : List Char :=
  ((t.dropWhile isBlank).reverse.dropWhile isBlank).reverse

/-- The parts of a text between its commas. -/
def splitCommas (t : List Char) : List (List Char) :=
  match t with
  | [] => [[]]
  | c :: rest =>
    match splitCommas rest with
    | [] => [[c]]
    | part :: parts => if c = ',' then [] :: part :: parts else (c :: part) :: parts

/-- A digit's value, in either case of a hexadecimal letter. -/
def digitValue (c : Char) : Option Nat :=
  if '0' ≤ c ∧ c ≤ '9' then some (c.toNat - '0'.toNat)
  else if 'a' ≤ c ∧ c ≤ 'f' then some (c.toNat - 'a'.toNat + 10)
  else if 'A' ≤ c ∧ c ≤ 'F' then some (c.toNat - 'A'.toNat + 10)
  else none

/-- The digits of a number in a base, after those that gave `acc`. -/
def digitsValue (base acc : Nat) (digits : List Char) : Option Nat :=
  match digits with
  | [] => some acc
  | c :: rest =>
    match digitValue c with
    | none => none
    | some d => if d < base then digitsValue base (acc * base + d) rest else none

/-- A number in decimal or as `0x` hexadecimal (R77). -/
def parseNumber (t : List Char) : Option Nat :=
  match t with
  | [] => none
  | '0' :: 'x' :: d :: rest => digitsValue 16 0 (d :: rest)
  | _ => digitsValue 10 0 t

/-- An operand: a number from 0 to 255 (R77). -/
def parseOperand (t : List Char) : Option Byte :=
  match parseNumber (trimBlanks t) with
  | none => none
  | some v => if v ≤ 255 then some (BitVec.ofNat 8 v) else none

/-- The operands of a line: none, or parts between commas, each an operand. -/
def parseOperands (t : List Char) : Option (List Byte) :=
  if (trimBlanks t).isEmpty then some [] else (splitCommas t).mapM parseOperand

/-- What a mnemonic and its operands stand for: one command (R77) or the expansion of a pseudo-instruction (R78). DESIGN
CHOICE (log entry 7): where R78 leaves operands open, CHECKSUM may have none, DECODE must have n and exactly 3n bytes, and
READ_WORDS takes any byte, so that 0 stands for no command, 256 is refused and an n above MAX_WORDS is accepted. -/
def commandsOf (mnemonic : List Char) (ops : List Byte) : Option (List Instr) :=
  if mnemonic = "NOP".toList then (match ops with | [] => some [.nop] | _ => none)
  else if mnemonic = "CRC_INIT".toList then (match ops with | [] => some [.crcInit] | _ => none)
  else if mnemonic = "CRC_BYTE".toList then (match ops with | [b] => some [.crcByte b] | _ => none)
  else if mnemonic = "CRC_READ".toList then (match ops with | [] => some [.crcRead] | _ => none)
  else if mnemonic = "FRAME_START".toList then (match ops with | [n] => some [.frameStart n] | _ => none)
  else if mnemonic = "FRAME_BYTE".toList then (match ops with | [b] => some [.frameByte b] | _ => none)
  else if mnemonic = "FRAME_ABORT".toList then (match ops with | [] => some [.frameAbort] | _ => none)
  else if mnemonic = "STATUS_READ".toList then (match ops with | [] => some [.statusRead] | _ => none)
  else if mnemonic = "WORD_READ".toList then (match ops with | [i] => some [.wordRead i] | _ => none)
  else if mnemonic = "CHECKSUM".toList then some (expand (.checksum ops))
  else if mnemonic = "FEED_WORD".toList then
    (match ops with | [hi, lo] => some (expand (.feedWord hi lo)) | _ => none)
  else if mnemonic = "FEED_TRIPLE".toList then
    (match ops with | [hi, lo, c] => some (expand (.feedTriple hi lo c)) | _ => none)
  else if mnemonic = "DECODE".toList then
    (match ops with
      | n :: buf => if buf.length = 3 * n.toNat then some (expand (.decode n buf)) else none
      | [] => none)
  else if mnemonic = "READ_WORDS".toList then (match ops with | [n] => some (expand (.readWords n)) | _ => none)
  else none

/-- The commands a line stands for: none at all on a line that is blank but for its comment. -/
def parseLine (line : List Char) : Option (List Instr) :=
  match trimBlanks (dropComment line) with
  | [] => some []
  | t =>
    match parseOperands (t.dropWhile fun c => !isBlank c) with
    | none => none
    | some ops => commandsOf (t.takeWhile fun c => !isBlank c) ops

/-- The command words of a line, or none where the assembler refuses it (R77: a FRAME_START operand above MAX_WORDS, too). -/
def assembleLine (P : Params) (line : List Char) : Option (List Word) :=
  match parseLine line with
  | none => none
  | some commands => if commands.all (wellFormed P) then some (commands.map encode) else none

/-- A mnemonic, as opcode_table.json spells it. -/
def mnemonicText (i : Instr) : List Char :=
  match i with
  | .nop => "NOP".toList
  | .crcInit => "CRC_INIT".toList
  | .crcByte _ => "CRC_BYTE".toList
  | .crcRead => "CRC_READ".toList
  | .frameStart _ => "FRAME_START".toList
  | .frameByte _ => "FRAME_BYTE".toList
  | .frameAbort => "FRAME_ABORT".toList
  | .statusRead => "STATUS_READ".toList
  | .wordRead _ => "WORD_READ".toList

/-- Whether a command takes an operand (R77). -/
def takesOperand (i : Instr) : Bool :=
  match i with
  | .nop => false
  | .crcInit => false
  | .crcByte _ => true
  | .crcRead => false
  | .frameStart _ => true
  | .frameByte _ => true
  | .frameAbort => false
  | .statusRead => false
  | .wordRead _ => true

/-- The operands a command's line gives (R77). -/
def lineOperands (i : Instr) : List Byte := if takesOperand i then [operand i] else []

/-- The name of a pseudo-instruction (R78). -/
def pseudoText (p : Pseudo) : List Char :=
  match p with
  | .checksum _ => "CHECKSUM".toList
  | .feedWord _ _ => "FEED_WORD".toList
  | .feedTriple _ _ _ => "FEED_TRIPLE".toList
  | .decode _ _ => "DECODE".toList
  | .readWords _ => "READ_WORDS".toList

/-- The operands a pseudo-instruction's line gives, in the order of R78. -/
def pseudoOperands (p : Pseudo) : List Byte :=
  match p with
  | .checksum bytes => bytes
  | .feedWord hi lo => [hi, lo]
  | .feedTriple hi lo c => [hi, lo, c]
  | .decode n buf => n :: buf
  | .readWords n => [n]

/-- Whether a pseudo-instruction is one of R78's: DECODE has 3n bytes, and its FRAME_START is legal. -/
def pseudoAllowed (P : Params) (p : Pseudo) : Bool :=
  match p with
  | .checksum _ => true
  | .feedWord _ _ => true
  | .feedTriple _ _ _ => true
  | .decode n buf => decide (buf.length = 3 * n.toNat) && wellFormed P (.frameStart n)
  | .readWords _ => true

end Sys2Proof.Machine
end

