-- ==== Sys2Proof/Safety.lean ====
section
/-! DEFINITION. The terms claims are stated in: the invariants of 10_state.md R34, legality as 30_encoding.md R73 says it,
what is observable (R37), when a frame is complete (70_reset_and_hazards.md R196), and streams of inputs. -/

namespace Sys2Proof.Machine

/-- WBUF has exactly MAX_WORDS entries (10_state.md R28, 20_memory.md R59). -/
def Memory.wf (P : Params) (m : Memory) : Bool := decide (m.length = P.maxWords)

/-- The invariants of R34, and the shape of the plain data: legal parameters and a buffer of MAX_WORDS entries. I9 speaks
of the past: see `WrittenInFrame`. -/
structure Invariant (s : State) : Prop where
  params : s.params.wf = true
  buffer : Memory.wf s.params s.block.wbuf = true
  i1 : s.block.n.toNat ≤ s.params.maxWords
  i2 : s.block.widx ≤ s.block.n
  i3 : posCode s.block.pos = 0 ∨ posCode s.block.pos = 1 ∨ posCode s.block.pos = 2
  i4 : s.block.phase = .idle → s.block.n = 0 ∧ s.block.widx = 0 ∧ s.block.pos = .high ∧ s.block.eidx = 0
  i5 : s.block.phase = .run → s.block.widx < s.block.n
  i6 : s.block.phase = .done → s.block.widx = s.block.n ∧ s.block.pos = .high
  i7 : s.block.phase = .err →
    1 ≤ s.block.n ∧ s.block.eidx < s.block.widx ∧ s.block.widx ≤ s.block.n ∧
      (s.block.widx = s.block.n → s.block.pos = .high)
  i8 : s.block.phase ≠ .err → s.block.eidx = 0

/-- R27: within a triple in RUN, FCRC is the running CRC of the bytes latched so far. -/
structure FcrcTracks (k : Block) : Prop where
  afterHigh : k.phase = .run → k.pos = .low → k.fcrc = checksum [k.hi]
  afterLow : k.phase = .run → k.pos = .check → k.fcrc = checksum [k.hi, k.lo]

/-- Whether FRAME_BYTE b stores a word in WBUF (41_frame.md R123). -/
def storesWord (b : Byte) (k : Block) : Bool :=
  decide (k.phase = .run) && decide (k.pos = .check) && decide (b = k.fcrc)

/-- The indices of WBUF written since the last FRAME_START, after the step that s takes next, where `written` are those
before it. It is a record for I9 only, and no part of the state. -/
def writtenAfter (s : State) (written : List Nat) : List Nat :=
  match s.port with
  | [] => written
  | .reset :: _ => []
  | .command w :: _ =>
    match decode s.params w with
    | some (.frameStart _) => []
    | some (.frameByte b) => if storesWord b s.block then storeIndex s.block :: written else written
    | _ => written

/-- I9 of R34, with what RUN must hold for it: every word that is or may become readable was written in this frame. -/
structure WrittenInFrame (k : Block) (written : List Nat) : Prop where
  whileRun : k.phase = .run → ∀ i, i < k.widx.toNat → i ∈ written
  i9 : k.phase = .done → ∀ i, i < k.n.toNat → i ∈ written

/-- The condition of R73, clause by clause. -/
def LegalWord (P : Params) (w : Word) : Prop :=
  w.extractLsb' 8 4 = 0#4 ∧ w.extractLsb' 12 4 ≤ 0x8#4 ∧
    ((w.extractLsb' 12 4 = 0x0#4 ∨ w.extractLsb' 12 4 = 0x1#4 ∨ w.extractLsb' 12 4 = 0x3#4 ∨
      w.extractLsb' 12 4 = 0x6#4 ∨ w.extractLsb' 12 4 = 0x7#4) → w.extractLsb' 0 8 = 0#8) ∧
    (w.extractLsb' 12 4 = 0x4#4 → (w.extractLsb' 0 8).toNat ≤ P.maxWords)

/-- Two states that no sequence of inputs can tell apart (R37): they differ at most in WBUF entries that are not words of
the current frame, and in HI, LO and FCRC where the next frame byte rewrites them before it reads them. -/
structure ObservablyEqual (s t : State) : Prop where
  params : s.params = t.params
  port : s.port = t.port
  resp : s.resp = t.resp
  crc : s.block.crc = t.block.crc
  phase : s.block.phase = t.block.phase
  n : s.block.n = t.block.n
  widx : s.block.widx = t.block.widx
  pos : s.block.pos = t.block.pos
  eidx : s.block.eidx = t.block.eidx
  ovr : s.block.ovr = t.block.ovr
  cmderr : s.block.cmderr = t.block.cmderr
  rdata : s.block.rdata = t.block.rdata
  bufferSize : s.block.wbuf.length = t.block.wbuf.length
  afterHigh : s.block.phase = .run → s.block.pos ≠ .high → s.block.hi = t.block.hi ∧ s.block.fcrc = t.block.fcrc
  afterLow : s.block.phase = .run → s.block.pos = .check → s.block.lo = t.block.lo
  whileRun : s.block.phase = .run → ∀ i, i < s.block.widx.toNat → readWord s.block i = readWord t.block i
  whenDone : s.block.phase = .done → ∀ i, i < s.block.n.toNat → readWord s.block i = readWord t.block i

/-- A frame is complete exactly when PHASE is DONE or ERR (R196). -/
abbrev FrameComplete (k : Block) : Prop := k.phase = .done ∨ k.phase = .err

/-- A frame byte is expected: RUN, or a drain that is not complete (60_exceptions.md R173, the other way round). -/
abbrev ByteExpected (k : Block) : Prop := k.phase = .run ∨ (k.phase = .err ∧ k.widx ≠ k.n)

/-- The frame-engine fields of `f` (40_crc.md R108) beside the CRC, CMDERR and RDATA of `k`. -/
def withFrameOf (k f : Block) : Block := { f with crc := k.crc, cmderr := k.cmderr, rdata := k.rdata }

/-- The checksum engine's commands (40_crc.md R103 to R105). -/
def isCrcCommand (i : Instr) : Bool :=
  match i with
  | .crcInit => true
  | .crcByte _ => true
  | .crcRead => true
  | .nop => false
  | .frameStart _ => false
  | .frameByte _ => false
  | .frameAbort => false
  | .statusRead => false
  | .wordRead _ => false

/-- The frame engine's commands (41_frame.md R122 to R124). -/
def isFrameCommand (i : Instr) : Bool :=
  match i with
  | .frameStart _ => true
  | .frameByte _ => true
  | .frameAbort => true
  | .nop => false
  | .crcInit => false
  | .crcByte _ => false
  | .crcRead => false
  | .statusRead => false
  | .wordRead _ => false

/-- The read commands, which alone drive a response (30_encoding.md R80). -/
def isReadCommand (i : Instr) : Bool :=
  match i with
  | .crcRead => true
  | .statusRead => true
  | .wordRead _ => true
  | .nop => false
  | .crcInit => false
  | .crcByte _ => false
  | .frameStart _ => false
  | .frameByte _ => false
  | .frameAbort => false

/-- The instruction an input is decoded to, if it is a legal command word. -/
def inputInstr (P : Params) (x : Input) : Option Instr :=
  match x with
  | .command w => decode P w
  | .reset => none

/-- The instructions of a stream of inputs that `keep` selects, in order: the others are what is interleaved. -/
def streamOf (P : Params) (keep : Instr → Bool) (inputs : List Input) : List Instr :=
  (inputs.filterMap (inputInstr P)).filter keep

/-- Whether an input is an illegal command word (30_encoding.md R74). -/
def isIllegalWord (P : Params) (x : Input) : Bool :=
  match x with
  | .command w => (decode P w).isNone
  | .reset => false

/-- Whether a stream of inputs holds no Reset. -/
def noReset (inputs : List Input) : Bool :=
  inputs.all fun x => decide (x ≠ .reset)

/-- The inputs that present some commands, one word each. -/
def commandInputs (commands : List Instr) : List Input := commands.map fun i => .command (encode i)

/-- One step in the form of R7: parameters, state and input give the new state and the response. -/
def blockStep (P : Params) (k : Block) (x : Input) : Block × Option Word :=
  match step { params := P, block := k, port := [x], resp := none } with
  | .next t => (t.block, t.resp)
  | .fault _ => (k, none)
  | .refused _ => (k, none)

/-- The state with its next input taken and no response driven: what a step performs the input from. -/
def taken (s : State) (rest : List Input) : State := { s with port := rest, resp := none }

/-- The instruction completes in s and drives the response v. -/
def Responds (i : Instr) (s : State) (v : Word) : Prop := ∃ t, exec i s = .next t ∧ t.resp = some v

/-- i is encoded by the one word w₀, and every other word of the same OP is illegal (30_encoding.md R72, R74). -/
def OnlyWord (i : Instr) (w₀ : Word) : Prop :=
  ∀ (P : Params) (w : Word), w.extractLsb' 12 4 = w₀.extractLsb' 12 4 →
    (w = w₀ → decode P w = some i) ∧ (w ≠ w₀ → decode P w = none)

/-- The inputs that clear ERR, EIDX and OVR (60_exceptions.md R177): FRAME_START, FRAME_ABORT, Reset. -/
def clearsFrameErrors (P : Params) (x : Input) : Bool :=
  match x with
  | .reset => true
  | .command w =>
    match decode P w with
    | some (.frameStart _) => true
    | some .frameAbort => true
    | _ => false

/-- The inputs that clear CMDERR (R177): FRAME_ABORT, Reset. -/
def clearsCommandError (P : Params) (x : Input) : Bool :=
  match x with
  | .reset => true
  | .command w => decide (decode P w = some .frameAbort)

/-- Whether the next input is one that `p` selects; an idle port has none. -/
def nextInputIs (p : Params → Input → Bool) (s : State) : Bool :=
  match s.port with
  | [] => false
  | x :: _ => p s.params x

/-- c is a digit of value d in a base up to 16, a hexadecimal letter in either case. -/
def IsDigit (base : Nat) (c : Char) (d : Nat) : Prop :=
  d < base ∧ ("0123456789abcdef".toList[d]? = some c ∨ "0123456789ABCDEF".toList[d]? = some c)

/-- The text t writes the number v in decimal or as `0x` hexadecimal (30_encoding.md R77), in any number of digits. -/
def Numeral (t : List Char) (v : Nat) : Prop :=
  (∃ ds : List Nat, ds ≠ [] ∧ List.Forall₂ (IsDigit 10) t ds ∧ v = ds.foldl (fun a d => 10 * a + d) 0) ∨
  (∃ (u : List Char) (ds : List Nat), t = '0' :: 'x' :: u ∧ ds ≠ [] ∧ List.Forall₂ (IsDigit 16) u ds ∧
    v = ds.foldl (fun a d => 16 * a + d) 0)

/-- The end of a line after its last operand: blanks, and then nothing or a comment (R77). -/
def LineEnd (t : List Char) : Prop :=
  ∃ blanks comment : List Char, t = blanks ++ comment ∧ blanks.all isBlank = true ∧
    (comment = [] ∨ ∃ text, comment = ';' :: text)

/-- The line is `name`, then after one space the operands' values in `values`, each a numeral, with a comma and a space
between them, and then the end of a line (R77, R78; log entry 7). -/
def Spells (line name : List Char) (values : List Nat) : Prop :=
  ∃ (texts : List (List Char)) (tail : List Char), List.Forall₂ Numeral texts values ∧ LineEnd tail ∧
    line = name ++ (if texts = [] then [] else ' ' :: (texts.intersperse [',', ' ']).flatten) ++ tail

/-- The bytes of the current frame that the engine has taken, after the step that s takes next, where `received` are those
before it. It is a record for `FrameMatches` only, and no part of the state. -/
def receivedAfter (s : State) (received : List Byte) : List Byte :=
  match s.port with
  | [] => received
  | .reset :: _ => []
  | .command w :: _ =>
    match decode s.params w with
    | some (.frameStart _) => []
    | some .frameAbort => []
    | some (.frameByte b) => if ByteExpected s.block then received ++ [b] else received
    | _ => received

/-- The block agrees with the source's `decode_words` (41_frame.md R120) on the bytes received in this frame: they are WIDX
triples and POS bytes; the words of the complete triples are the ones stored, in RUN and DONE, and the first mismatch among
them is at EIDX, in ERR; and the latches hold the bytes of the triple that is not complete. `decode_words` is applied to the
3 WIDX bytes of the complete triples alone, so R120's precondition holds and log entry 10 plays no part. -/
structure FrameMatches (k : Block) (received : List Byte) : Prop where
  count : k.phase ≠ .idle → received.length = 3 * k.widx.toNat + (posCode k.pos).toNat
  valid : k.phase = .run ∨ k.phase = .done →
    decodeWords (received.take (3 * k.widx.toNat)) k.widx.toNat = .ok (k.wbuf.take k.widx.toNat)
  mismatch : k.phase = .err → decodeWords (received.take (3 * k.widx.toNat)) k.widx.toNat = .err k.eidx.toNat
  latchHigh : k.phase = .run → k.pos ≠ .high → received[3 * k.widx.toNat]? = some k.hi
  latchLow : k.phase = .run → k.pos = .check → received[3 * k.widx.toNat + 1]? = some k.lo

end Sys2Proof.Machine
end

