-- ==== Sys2Proof/Certificates/Slice0/Obligations.lean ====
section
/-! DEFINITION. The statements for the provers. Each docstring names the rule of spec/ it formalises. A premise
`Memory.wf s.params s.block.wbuf` or `Invariant s` only rules out states that no run reaches (10_state.md R34);
`StepKeepsInvariant` and `ResetMeetsInvariant` state that it does. -/

open Sys2Proof Sys2Proof.Machine

/-! ### Encoding and stepping -/

/-- 30_encoding.md R79, R70, R72, R77: a word decodes to an instruction exactly when that instruction is well formed and
the word is its encoding. So decode of encode is the identity, and decode is injective on legal words. -/
def Obligations.DecodeIsInverseOfEncode : Prop :=
  ∀ (P : Params) (w : Word) (i : Instr), decode P w = some i ↔ (wellFormed P i = true ∧ encode i = w)

/-- 30_encoding.md R73: a word is legal exactly under the rule's conditions, and 790 words are legal at MAX_WORDS = 16. -/
def Obligations.LegalWordsAreThoseOfR73 : Prop :=
  (∀ (P : Params) (w : Word), (∃ i, decode P w = some i) ↔ LegalWord P w) ∧
  (∀ P : Params, P.maxWords = 16 →
    ((List.range 65536).filter fun v => (decode P (BitVec.ofNat 16 v)).isSome).length = 790)

/-- 30_encoding.md R74: an illegal word sets CMDERR, changes nothing else, drives no response, and the next word is
performed normally; the rule's four cases are illegal. -/
def Obligations.IllegalWordOnlySetsCmdErr : Prop :=
  (∀ (s : State) (w : Word) (rest : List Input), s.port = .command w :: rest → decode s.params w = none →
    step s = .next { s with port := rest, resp := none, block := { s.block with cmderr := true } }) ∧
  (∀ (P : Params) (w : Word), w.extractLsb' 8 4 ≠ 0#4 → decode P w = none) ∧
  (∀ (P : Params) (w : Word), 0x9#4 ≤ w.extractLsb' 12 4 → decode P w = none) ∧
  (∀ (P : Params) (w : Word), w.extractLsb' 0 8 ≠ 0#8 →
    w.extractLsb' 12 4 = 0x0#4 ∨ w.extractLsb' 12 4 = 0x1#4 ∨ w.extractLsb' 12 4 = 0x3#4 ∨
      w.extractLsb' 12 4 = 0x6#4 ∨ w.extractLsb' 12 4 = 0x7#4 → decode P w = none) ∧
  (∀ (P : Params) (w : Word), w.extractLsb' 12 4 = 0x4#4 → P.maxWords < (w.extractLsb' 0 8).toNat → decode P w = none)

/-- 00_scope.md R7: when the next input is a command word that decodes to i, the step is exec of i on the state with that
input taken and no response driven yet, and i is well formed. -/
def Obligations.StepRunsDecodedCommand : Prop :=
  ∀ (s : State) (w : Word) (rest : List Input) (i : Instr),
    s.port = .command w :: rest → decode s.params w = some i →
    wellFormed s.params i = true ∧ step s = exec i { s with port := rest, resp := none }

/-- The model's choice for an idle port (log entry 2), after 00_scope.md R7 and the corner case of 42_readout.md R150: the
step leaves the block, the parameters and the port as they were. -/
def Obligations.IdlePortChangesNothing : Prop :=
  ∀ s : State, s.port = [] → step s = .next { s with resp := none }

/-- 00_scope.md R7 and 92_eei_decisions.md D25: no input makes the step fail or leaves the block stuck. That an idle port
steps too is the model's choice (log entry 2). -/
def Obligations.EveryStepAnswersNext : Prop :=
  ∀ s : State, ∃ t, step s = .next t

/-- Words written out from 30_encoding.md R72 and 95_test_vectors.md 2.9, which takes MAX_WORDS = 16. -/
def Obligations.WordsOfTheOpcodeMapDecode : Prop :=
  ∀ P : Params, P.maxWords = 16 →
    decode P 0x0000 = some .nop ∧ decode P 0x1000 = some .crcInit ∧ decode P 0x20BE = some (.crcByte 0xBE) ∧
    decode P 0x3000 = some .crcRead ∧ decode P 0x4010 = some (.frameStart 16) ∧
    decode P 0x50EF = some (.frameByte 0xEF) ∧ decode P 0x6000 = some .frameAbort ∧
    decode P 0x7000 = some .statusRead ∧ decode P 0x80FF = some (.wordRead 255) ∧
    decode P 0x4011 = none ∧ decode P 0x0100 = none ∧ decode P 0x9000 = none ∧ decode P 0x7001 = none

/-- 41_frame.md R131: the driver's frame sizes 1, 3, 8 and 16 are legal at every legal MAX_WORDS. -/
def Obligations.DriverFrameSizesAreLegal : Prop :=
  ∀ (P : Params) (n : Byte), P.wf = true → n = 1 ∨ n = 3 ∨ n = 8 ∨ n = 16 →
    decode P (0x4000 + n.setWidth 16) = some (.frameStart n)

/-- 30_encoding.md R77 and R78: a line that gives a command's mnemonic and its operand, in decimal or as `0x` hexadecimal of
any number of digits, with a comment or without, assembles to that command's word; a line that gives a pseudo-instruction
and its operands assembles to the words of its expansion. A FRAME_START operand above MAX_WORDS, an operand above 255 and a
wrong number of operands are refused. The blanks and commas of `Spells` are the model's form of a line (log entry 7). -/
def Obligations.AssemblerEncodesCommandAndPseudoLines : Prop :=
  (∀ (P : Params) (i : Instr) (line : List Char), wellFormed P i = true →
    Spells line (mnemonicText i) ((lineOperands i).map BitVec.toNat) → assembleLine P line = some [encode i]) ∧
  (∀ (P : Params) (p : Pseudo) (line : List Char), pseudoAllowed P p = true →
    Spells line (pseudoText p) ((pseudoOperands p).map BitVec.toNat) →
    assembleLine P line = some ((expand p).map encode)) ∧
  (∀ (P : Params) (n : Byte) (line : List Char), P.maxWords < n.toNat →
    Spells line (mnemonicText (.frameStart n)) [n.toNat] → assembleLine P line = none) ∧
  (∀ (P : Params) (i : Instr) (line : List Char) (v : Nat), 255 < v →
    Spells line (mnemonicText i) [v] → assembleLine P line = none) ∧
  (∀ (P : Params) (i : Instr) (line : List Char) (values : List Nat), values.length ≠ (lineOperands i).length →
    Spells line (mnemonicText i) values → assembleLine P line = none)

/-! ### Reset -/

/-- 70_reset_and_hazards.md R190: Reset sets every field to its reset value whatever the state, drives no response, and
leaves a state that meets R34, reads STATUS 0x0000 and CRC 0x00FF. -/
def Obligations.ResetSetsEveryField : Prop :=
  (∀ (s : State) (rest : List Input), s.port = .reset :: rest →
    step s = .next { s with
      port := rest, resp := none
      block := { crc := 0xFF, phase := .idle, n := 0, widx := 0, pos := .high, hi := 0, lo := 0, fcrc := 0xFF,
                 wbuf := List.replicate s.params.maxWords 0, eidx := 0, ovr := false, cmderr := false, rdata := 0 } }) ∧
  (∀ (s t : State) (rest : List Input), s.params.wf = true → s.port = .reset :: rest → step s = .next t →
    t.block = (State.resetWith s.params).block ∧ Invariant t ∧
    Responds .statusRead t 0x0000 ∧ Responds .crcRead t 0x00FF)

/-- 10_state.md R34: the reset state meets the invariants, at every legal MAX_WORDS. -/
def Obligations.ResetMeetsInvariant : Prop :=
  ∀ P : Params, P.wf = true → Invariant (State.resetWith P) ∧ WrittenInFrame (State.resetWith P).block []

/-- 70_reset_and_hazards.md R191: from reset a checksum may start with CRC_BYTE at once, while a frame byte before any
FRAME_START sets OVR and is dropped. -/
def Obligations.ResetNeedsNoSetup : Prop :=
  (∀ (P : Params) (bytes : List Byte) (rest : List Input),
    ∃ t, Host.Core.run core (bytes.length + 1)
        { State.resetWith P with port := commandInputs (bytes.map .crcByte ++ [.crcRead]) ++ rest } = .next t ∧
      t.resp = some ((checksum bytes).setWidth 16) ∧ t.port = rest) ∧
  (∀ (P : Params) (b : Byte),
    exec (.frameByte b) (State.resetWith P) =
      .next { State.resetWith P with block := { Block.reset P with ovr := true } })

/-! ### Invariants -/

/-- 10_state.md R34 (I1 to I8): from every state that meets the invariants, a step gives a state that meets them. -/
def Obligations.StepKeepsInvariant : Prop :=
  ∀ s t : State, Invariant s → step s = .next t → Invariant t

/-- 10_state.md R34 (I9): in DONE every readable word was written since the last FRAME_START. -/
def Obligations.DoneWordsWereWrittenInFrame : Prop :=
  ∀ (s t : State) (written : List Nat), Invariant s → WrittenInFrame s.block written → step s = .next t →
    WrittenInFrame t.block (writtenAfter s written)

/-- 10_state.md R27: in RUN, FCRC at POS 2 is the checksum of HI and LO, and at POS 1 that of HI; every step keeps it. -/
def Obligations.StepKeepsFcrcOfTriple : Prop :=
  (∀ P : Params, FcrcTracks (State.resetWith P).block) ∧
  (∀ s t : State, FcrcTracks s.block → step s = .next t → FcrcTracks t.block)

/-- 10_state.md R37: states that differ only in hidden words and latches take the same responses and stay so: no program
reads a word of an earlier frame, or of triples before a mismatch. -/
def Obligations.StaleStateIsUnobservable : Prop :=
  ∀ s t : State, ObservablyEqual s t →
    ∃ s' t', step s = .next s' ∧ step t = .next t' ∧ ObservablyEqual s' t'

/-! ### The checksum -/

/-- 40_crc.md R101 and 00_scope.md R2: the source's reference value, the empty sequence, and the check value. -/
def Obligations.ChecksumReferenceValues : Prop :=
  checksum [0xBE, 0xEF] = 0x92 ∧ checksum [] = 0xFF ∧
  checksum [0x31, 0x32, 0x33, 0x34, 0x35, 0x36, 0x37, 0x38, 0x39] = 0xF7

/-- 40_crc.md R109 (a), (b), (c): the update depends on c XOR b only, through a map that is linear and a bijection. -/
def Obligations.UpdateIsLinearBijection : Prop :=
  (∀ c b : Byte, crc8Update c b = crc8Update 0x00 (c ^^^ b)) ∧
  (∀ x y : Byte, crc8Update 0x00 (x ^^^ y) = crc8Update 0x00 x ^^^ crc8Update 0x00 y) ∧
  Function.Bijective (crc8Update 0x00)

/-- 40_crc.md R109 (d), (e): the checksum of two bytes through T, and its bijectivity in each byte. -/
def Obligations.ChecksumOfTwoBytesIsBijectiveInEach : Prop :=
  (∀ h l : Byte, checksum [h, l] = crc8Update 0x00 (crc8Update 0x00 (0xFF ^^^ h) ^^^ l)) ∧
  (∀ h l : Byte, checksum [h, l] = 0x81 ^^^ crc8Update 0x00 (crc8Update 0x00 h ^^^ l)) ∧
  checksum [0x00, 0x00] = 0x81 ∧
  (∀ h : Byte, Function.Bijective fun l : Byte => checksum [h, l]) ∧
  (∀ l : Byte, Function.Bijective fun h : Byte => checksum [h, l])

/-- 40_crc.md R109 (f): the error patterns of the two data bytes that pass, and that every one flips 4 bits or more. -/
def Obligations.UndetectedErrorsFlipFourBits : Prop :=
  (∀ h l eh el : Byte, checksum [h ^^^ eh, l ^^^ el] = checksum [h, l] ↔ crc8Update 0x00 eh = el) ∧
  (∀ eh el : Byte, crc8Update 0x00 eh = el → ¬ (eh = 0 ∧ el = 0) →
    4 ≤ ((List.range 8).filter fun k => eh.getLsbD k).length + ((List.range 8).filter fun k => el.getLsbD k).length) ∧
  (∃ eh el : Byte, crc8Update 0x00 eh = el ∧
    ((List.range 8).filter fun k => eh.getLsbD k).length + ((List.range 8).filter fun k => el.getLsbD k).length = 4)

/-- 40_crc.md R109 (g): a triple is valid exactly when its three bytes checksum to zero. -/
def Obligations.ValidTripleHasZeroResidue : Prop :=
  ∀ h l c : Byte, checksum [h, l, c] = 0x00 ↔ c = checksum [h, l]

/-- 40_crc.md R107: flipping one bit of a word changes its checksum, and flipping one bit of the checksum byte of a valid
triple makes the frame engine record a mismatch. -/
def Obligations.SingleBitFlipIsDetected : Prop :=
  (∀ (w : Word) (k : Nat), k < 16 →
    let v := w ^^^ (1#16 <<< k)
    checksum [v.extractLsb' 8 8, v.extractLsb' 0 8] ≠ checksum [w.extractLsb' 8 8, w.extractLsb' 0 8]) ∧
  (∀ (s : State) (k : Nat), k < 8 → s.block.phase = .run → s.block.pos = .check → FcrcTracks s.block →
    ∃ t, exec (.frameByte (checksum [s.block.hi, s.block.lo] ^^^ (1#8 <<< k))) s = .next t ∧
      t.block.phase = .err ∧ t.block.eidx = s.block.widx)

/-- 20_memory.md R51: word assembly is big-endian. -/
def Obligations.WordAssemblyIsBigEndian : Prop :=
  ∀ hi lo : Byte, (joinBytes hi lo).extractLsb' 8 8 = hi ∧ (joinBytes hi lo).extractLsb' 0 8 = lo ∧
    (joinBytes hi lo).toNat = 256 * hi.toNat + lo.toNat

/-- 40_crc.md R106: CRC_INIT, the bytes, CRC_READ, with any other legal or illegal words between them, respond the
checksum of the bytes; from a state with CRC = 0xFF, as after reset, CRC_INIT may be left out. -/
def Obligations.ChecksumStreamRespondsChecksum : Prop :=
  ∀ (s : State) (inputs rest : List Input) (bytes : List Byte),
    s.port = inputs ++ .command 0x3000 :: rest → noReset inputs = true →
    (streamOf s.params isCrcCommand inputs = .crcInit :: bytes.map .crcByte ∨
      (s.block.crc = 0xFF ∧ streamOf s.params isCrcCommand inputs = bytes.map .crcByte)) →
    ∃ t, Host.Core.run core (inputs.length + 1) s = .next t ∧ t.port = rest ∧
      t.resp = some ((checksum bytes).setWidth 16)

/-- 40_crc.md R108: the checksum commands neither read nor write a frame-engine field, and no other command reads or
writes CRC; CMDERR is set alike by every illegal word. -/
def Obligations.EnginesAreIndependent : Prop :=
  (∀ (i : Instr) (s t : State) (f : Block), isCrcCommand i = true → exec i s = .next t →
    t.block = withFrameOf t.block s.block ∧
    exec i { s with block := withFrameOf s.block f } = .next { t with block := withFrameOf t.block f }) ∧
  (∀ (i : Instr) (s t : State) (c : Byte), isCrcCommand i = false → exec i s = .next t →
    t.block.crc = s.block.crc ∧
    exec i { s with block := { s.block with crc := c } } = .next { t with block := { t.block with crc := c } }) ∧
  (∀ (s : State) (w : Word) (rest : List Input), s.port = .command w :: rest → decode s.params w = none →
    ∃ t, step s = .next t ∧ t.block = { s.block with cmderr := true })

/-! ### The commands, one rule each -/

/-- 42_readout.md R150: NOP. -/
def Obligations.NopDoesNothing : Prop :=
  OnlyWord .nop 0x0000 ∧
  (∀ s : State, exec .nop s = .next s) ∧
  (∀ (s : State) (rest : List Input), s.port = .command 0x0000 :: rest →
    step s = .next { s with port := rest, resp := none })

/-- 40_crc.md R103: CRC_INIT. -/
def Obligations.CrcInitWritesFF : Prop :=
  OnlyWord .crcInit 0x1000 ∧
  (∀ s : State, exec .crcInit s = .next { s with block := { s.block with crc := 0xFF } }) ∧
  (∀ (s : State) (rest : List Input), s.port = .command 0x1000 :: rest →
    step s = .next { s with port := rest, resp := none, block := { s.block with crc := 0xFF } }) ∧
  (∀ s t : State, exec .crcInit s = .next t → exec .crcInit t = .next t)

/-- 40_crc.md R104: CRC_BYTE. -/
def Obligations.CrcByteUpdatesCrc : Prop :=
  (∀ (P : Params) (b : Byte), decode P (0x2000 + b.setWidth 16) = some (.crcByte b)) ∧
  (∀ (s : State) (b : Byte),
    exec (.crcByte b) s = .next { s with block := { s.block with crc := crc8Update s.block.crc b } }) ∧
  (∀ (s : State) (b : Byte) (rest : List Input), s.port = .command (0x2000 + b.setWidth 16) :: rest →
    step s = .next { s with
      port := rest, resp := none, block := { s.block with crc := crc8Update s.block.crc b } }) ∧
  (∀ c : Byte, crc8Update c 0x00 = crc8Update 0x00 c ∧ (crc8Update c 0x00 = c ↔ c = 0x00 ∨ c = 0xEF)) ∧
  crc8Update 0xFF 0xFF = 0x00 ∧ crc8Update 0xFF 0xBE = 0x0C ∧ crc8Update 0x0C 0xEF = 0x92

/-- 40_crc.md R105: CRC_READ. -/
def Obligations.CrcReadRespondsCrc : Prop :=
  OnlyWord .crcRead 0x3000 ∧
  (∀ s : State, exec .crcRead s = .next { s with
    block := { s.block with rdata := s.block.crc.setWidth 16 }, resp := some (s.block.crc.setWidth 16) }) ∧
  (∀ (s : State) (rest : List Input), s.port = .command 0x3000 :: rest →
    step s = .next { s with
      port := rest, block := { s.block with rdata := s.block.crc.setWidth 16 }
      resp := some (s.block.crc.setWidth 16) }) ∧
  (∀ s t : State, exec .crcRead s = .next t → exec .crcRead t = .next t) ∧
  (∀ P : Params, Responds .crcRead (State.resetWith P) 0x00FF)

/-- 41_frame.md R122: FRAME_START, legal up to MAX_WORDS in every phase; above it the word changes CMDERR only. -/
def Obligations.FrameStartOpensFrame : Prop :=
  (∀ (P : Params) (n : Byte), n.toNat ≤ P.maxWords → decode P (0x4000 + n.setWidth 16) = some (.frameStart n)) ∧
  (∀ (s : State) (n : Byte), n.toNat ≤ s.params.maxWords →
    exec (.frameStart n) s = .next { s with
      block := { s.block with
        n := n, widx := 0, pos := .high, fcrc := 0xFF, eidx := 0, ovr := false
        phase := if n = 0 then .done else .run } }) ∧
  (∀ (s : State) (n : Byte) (rest : List Input),
    s.port = .command (0x4000 + n.setWidth 16) :: rest → n.toNat ≤ s.params.maxWords →
    step s = .next { s with
      port := rest, resp := none
      block := { s.block with
        n := n, widx := 0, pos := .high, fcrc := 0xFF, eidx := 0, ovr := false
        phase := if n = 0 then .done else .run } }) ∧
  (∀ (s : State) (n : Byte) (rest : List Input),
    s.port = .command (0x4000 + n.setWidth 16) :: rest → s.params.maxWords < n.toNat →
    step s = .next { s with port := rest, resp := none, block := { s.block with cmderr := true } }) ∧
  (∀ P : Params, P.wf = true → ∃ t, exec (.frameStart 3) (State.resetWith P) = .next t ∧
    t.block.phase = .run ∧ t.block.n = 3 ∧ t.block.widx = 0 ∧ t.block.pos = .high ∧ Responds .statusRead t 0x0001)

/-- 41_frame.md R123: FRAME_BYTE, case by case of its pseudocode, its corner cases, and its example. -/
def Obligations.FrameByteFollowsPseudocode : Prop :=
  (∀ (P : Params) (b : Byte), decode P (0x5000 + b.setWidth 16) = some (.frameByte b)) ∧
  (∀ (s : State) (b : Byte) (rest : List Input), s.port = .command (0x5000 + b.setWidth 16) :: rest →
    step s = exec (.frameByte b) { s with port := rest, resp := none }) ∧
  (∀ (s : State) (b : Byte), s.block.phase = .idle ∨ s.block.phase = .done →
    exec (.frameByte b) s = .next { s with block := { s.block with ovr := true } }) ∧
  (∀ (s : State) (b : Byte), s.block.phase = .err → s.block.widx = s.block.n →
    exec (.frameByte b) s = .next { s with block := { s.block with ovr := true } }) ∧
  (∀ (s : State) (b : Byte), s.block.phase = .err → s.block.widx ≠ s.block.n → s.block.pos = .high →
    exec (.frameByte b) s = .next { s with block := { s.block with pos := .low } }) ∧
  (∀ (s : State) (b : Byte), s.block.phase = .err → s.block.widx ≠ s.block.n → s.block.pos = .low →
    exec (.frameByte b) s = .next { s with block := { s.block with pos := .check } }) ∧
  (∀ (s : State) (b : Byte), s.block.phase = .err → s.block.widx ≠ s.block.n → s.block.pos = .check →
    exec (.frameByte b) s = .next { s with block := { s.block with pos := .high, widx := s.block.widx + 1 } }) ∧
  (∀ (s : State) (b : Byte), s.block.phase = .run → s.block.pos = .high →
    exec (.frameByte b) s = .next { s with
      block := { s.block with hi := b, fcrc := crc8Update 0xFF b, pos := .low } }) ∧
  (∀ (s : State) (b : Byte), s.block.phase = .run → s.block.pos = .low →
    exec (.frameByte b) s = .next { s with
      block := { s.block with lo := b, fcrc := crc8Update s.block.fcrc b, pos := .check } }) ∧
  (∀ (s : State) (b : Byte), s.block.phase = .run → s.block.pos = .check → b = s.block.fcrc →
    exec (.frameByte b) s = .next { s with
      block := { s.block with
        wbuf := s.block.wbuf.set s.block.widx.toNat (joinBytes s.block.hi s.block.lo)
        widx := s.block.widx + 1, pos := .high
        phase := if s.block.widx + 1 = s.block.n then .done else .run } }) ∧
  (∀ (s : State) (b : Byte), s.block.phase = .run → s.block.pos = .check → b ≠ s.block.fcrc →
    exec (.frameByte b) s = .next { s with
      block := { s.block with
        eidx := s.block.widx, phase := .err, widx := s.block.widx + 1, pos := .high } }) ∧
  (∀ s : State, FcrcTracks s.block → s.block.phase = .run → s.block.pos = .check →
    s.block.fcrc = checksum [s.block.hi, s.block.lo]) ∧
  (∀ (s t : State) (b : Byte), Invariant s → exec (.frameByte b) s = .next t → t.block.widx ≤ t.block.n) ∧
  (∀ (s : State) (c : Byte) (rest : List Input), Memory.wf s.params s.block.wbuf = true → 1 ≤ s.params.maxWords →
    s.port = commandInputs [.frameStart 1, .frameByte 0xBE, .frameByte 0xEF, .frameByte c] ++ rest →
    ∃ t, Host.Core.run core 4 s = .next t ∧
      (c = 0x92 → t.block.phase = .done ∧ readWord t.block 0 = 0xBEEF) ∧
      (c ≠ 0x92 → t.block.phase = .err ∧ t.block.eidx = 0))

/-- 41_frame.md R124: FRAME_ABORT. -/
def Obligations.FrameAbortClosesFrame : Prop :=
  OnlyWord .frameAbort 0x6000 ∧
  (∀ s : State, exec .frameAbort s = .next { s with
    block := { s.block with
      phase := .idle, n := 0, widx := 0, pos := .high, fcrc := 0xFF, eidx := 0, ovr := false, cmderr := false } }) ∧
  (∀ (s : State) (rest : List Input), s.port = .command 0x6000 :: rest →
    step s = .next { s with
      port := rest, resp := none
      block := { s.block with
        phase := .idle, n := 0, widx := 0, pos := .high, fcrc := 0xFF, eidx := 0, ovr := false, cmderr := false } }) ∧
  (∀ s t : State, exec .frameAbort s = .next t → exec .frameAbort t = .next t ∧ Responds .statusRead t 0x0000)

/-- 42_readout.md R151 and 10_state.md R33: STATUS_READ responds the status word, field by field. -/
def Obligations.StatusReadRespondsStatus : Prop :=
  OnlyWord .statusRead 0x7000 ∧
  (∀ s : State, ∃ v : Word,
    exec .statusRead s = .next { s with block := { s.block with rdata := v }, resp := some v } ∧
    v = (s.block.eidx.setWidth 16 <<< 8) ||| ((BitVec.ofBool s.block.cmderr).setWidth 16 <<< 3) |||
      ((BitVec.ofBool s.block.ovr).setWidth 16 <<< 2) ||| (phaseCode s.block.phase).setWidth 16 ∧
    v.extractLsb' 8 8 = s.block.eidx ∧ v.extractLsb' 4 4 = 0#4 ∧ v.getLsbD 3 = s.block.cmderr ∧
    v.getLsbD 2 = s.block.ovr ∧ v.extractLsb' 0 2 = phaseCode s.block.phase ∧
    (Invariant s → (s.block.phase = .err → v.extractLsb' 8 8 < s.block.n) ∧
      (s.block.phase ≠ .err → v.extractLsb' 8 8 = 0#8) ∧
      (v.extractLsb' 8 8 ≠ 0#8 → s.block.phase = .err ∧ 1 ≤ s.block.eidx))) ∧
  (∀ (s : State) (rest : List Input), s.port = .command 0x7000 :: rest →
    step s = exec .statusRead { s with port := rest, resp := none }) ∧
  (∀ s t : State, exec .statusRead s = .next t → exec .statusRead t = .next t) ∧
  phaseCode .idle = 0 ∧ phaseCode .run = 1 ∧ phaseCode .done = 2 ∧ phaseCode .err = 3 ∧
  (∀ P : Params, Responds .statusRead (State.resetWith P) 0x0000) ∧
  (∀ s : State, s.block.phase = .err → s.block.eidx = 5 → s.block.ovr = true → s.block.cmderr = false →
    Responds .statusRead s 0x0507)

/-- 42_readout.md R152 and 41_frame.md R126: WORD_READ gives WBUF[i] in DONE below N, and 0x0000 in every other case. -/
def Obligations.WordReadIsGated : Prop :=
  (∀ (P : Params) (i : Byte), decode P (0x8000 + i.setWidth 16) = some (.wordRead i)) ∧
  (∀ (s : State) (i : Byte) (v : Word), s.block.phase = .done → i < s.block.n → s.block.wbuf[i.toNat]? = some v →
    exec (.wordRead i) s = .next { s with block := { s.block with rdata := v }, resp := some v }) ∧
  (∀ (s : State) (i : Byte), Invariant s → i < s.block.n → ∃ v, s.block.wbuf[i.toNat]? = some v) ∧
  (∀ (s : State) (i : Byte), s.block.phase ≠ .done ∨ s.block.n ≤ i →
    exec (.wordRead i) s = .next { s with block := { s.block with rdata := 0x0000 }, resp := some 0x0000 }) ∧
  (∀ (s : State) (i : Byte) (rest : List Input), s.port = .command (0x8000 + i.setWidth 16) :: rest →
    step s = exec (.wordRead i) { s with port := rest, resp := none })

/-- The frame of FRAME_BYTE and of every other command (41_frame.md R123, 20_memory.md R50): FRAME_BYTE writes WBUF only
at WIDX and only for a valid triple, no other command writes WBUF, and FRAME_BYTE leaves the fields R123 excludes. -/
def Obligations.OnlyValidTriplesAreStored : Prop :=
  (∀ (s t : State) (b : Byte), exec (.frameByte b) s = .next t →
    t.params = s.params ∧ t.port = s.port ∧ t.resp = s.resp ∧ t.block.crc = s.block.crc ∧ t.block.n = s.block.n ∧
    t.block.cmderr = s.block.cmderr ∧ t.block.rdata = s.block.rdata ∧
    (storesWord b s.block = true → ∀ a j : Nat, storeIndex s.block = a → j ≠ a →
      readWord t.block j = readWord s.block j) ∧
    (storesWord b s.block = true → storeIndex s.block < s.block.wbuf.length →
      readWord t.block (storeIndex s.block) = joinBytes s.block.hi s.block.lo) ∧
    (storesWord b s.block = false → ∀ j : Nat, readWord t.block j = readWord s.block j)) ∧
  (∀ (i : Instr) (s t : State), (∀ b, i ≠ .frameByte b) → exec i s = .next t →
    t.block.wbuf = s.block.wbuf ∧ ∀ j : Nat, readWord t.block j = readWord s.block j)

/-! ### Whole-machine rules -/

/-- 10_state.md R21 to R32 and R35, and 41_frame.md R124: each register changes only by the commands that the rule of the
register names, and FCRC by FRAME_ABORT too, which R27 does not name and R124 does. -/
def Obligations.EachRegisterHasItsOwnWriters : Prop :=
  ∀ (s t : State) (w : Word) (rest : List Input), s.port = .command w :: rest → step s = .next t →
    let d := decode s.params w
    let starts := ∃ n, d = some (.frameStart n)
    let feeds := ∃ b, d = some (.frameByte b)
    let aborts := d = some .frameAbort
    (t.block.crc ≠ s.block.crc → d = some .crcInit ∨ ∃ b, d = some (.crcByte b)) ∧
    (t.block.phase ≠ s.block.phase → starts ∨ feeds ∨ aborts) ∧
    (t.block.n ≠ s.block.n → starts ∨ aborts) ∧
    (t.block.widx ≠ s.block.widx → starts ∨ feeds ∨ aborts) ∧
    (t.block.pos ≠ s.block.pos → starts ∨ feeds ∨ aborts) ∧
    (t.block.hi ≠ s.block.hi → feeds) ∧
    (t.block.lo ≠ s.block.lo → feeds) ∧
    (t.block.fcrc ≠ s.block.fcrc → starts ∨ feeds ∨ aborts) ∧
    (t.block.wbuf ≠ s.block.wbuf → feeds) ∧
    (t.block.eidx ≠ s.block.eidx → starts ∨ feeds ∨ aborts) ∧
    (t.block.ovr ≠ s.block.ovr → starts ∨ feeds ∨ aborts) ∧
    (t.block.cmderr ≠ s.block.cmderr → d = none ∨ aborts) ∧
    (t.block.rdata ≠ s.block.rdata → ∃ i, d = some i ∧ isReadCommand i = true) ∧
    t.params = s.params ∧ t.port = rest

/-- 60_exceptions.md R177: what clears each error record, and that nothing else does. -/
def Obligations.OnlyNamedInputsClearErrors : Prop :=
  ∀ s t : State, step s = .next t →
    (nextInputIs clearsFrameErrors s = false →
      (s.block.phase = .err → t.block.phase = .err ∧ t.block.eidx = s.block.eidx) ∧
      (s.block.ovr = true → t.block.ovr = true)) ∧
    (nextInputIs clearsFrameErrors s = true →
      t.block.phase ≠ .err ∧ t.block.eidx = 0 ∧ t.block.ovr = false) ∧
    (nextInputIs clearsCommandError s = false → s.block.cmderr = true → t.block.cmderr = true) ∧
    (nextInputIs clearsCommandError s = true → t.block.cmderr = false) ∧
    (nextInputIs isIllegalWord s = true → s.block.cmderr = true → t.block = s.block)

/-- 60_exceptions.md R176 and R171 to R173: a command word raises at most one error, each only where its rule says; only
the first mismatch of a frame is recorded; records of different commands add up. -/
def Obligations.OneCommandRaisesOneError : Prop :=
  (∀ (s t : State) (w : Word) (rest : List Input), s.port = .command w :: rest → step s = .next t →
    (s.block.cmderr = false → t.block.cmderr = true →
      decode s.params w = none ∧ t.block = { s.block with cmderr := true }) ∧
    (s.block.ovr = false → t.block.ovr = true →
      (∃ b, decode s.params w = some (.frameByte b)) ∧ ¬ ByteExpected s.block ∧
      t.block = { s.block with ovr := true }) ∧
    (s.block.phase ≠ .err → t.block.phase = .err →
      (∃ b, decode s.params w = some (.frameByte b) ∧ b ≠ s.block.fcrc) ∧ s.block.phase = .run ∧
      s.block.pos = .check ∧ t.block.eidx = s.block.widx ∧ t.block.ovr = s.block.ovr ∧
      t.block.cmderr = s.block.cmderr) ∧
    (s.block.phase = .err → nextInputIs clearsFrameErrors s = false → t.block.eidx = s.block.eidx)) ∧
  (∃ s : State, Invariant s ∧ s.block.phase = .err ∧ s.block.ovr = true ∧ s.block.cmderr = true)

/-- 20_memory.md R58: the reads change RDATA only and are idempotent, as are CRC_INIT, FRAME_ABORT, NOP and FRAME_START
with one ARG; CRC_BYTE and FRAME_BYTE are not. -/
def Obligations.IdempotentCommands : Prop :=
  (∀ (i : Instr) (s t : State), isReadCommand i = true → exec i s = .next t →
    t.block = { s.block with rdata := t.block.rdata } ∧ t.resp = some t.block.rdata ∧ exec i t = .next t) ∧
  (∀ (i : Instr) (s t : State), i = .crcInit ∨ i = .frameAbort ∨ i = .nop ∨ (∃ n, i = .frameStart n) →
    exec i s = .next t → exec i t = .next t) ∧
  (∃ (b : Byte) (s t u : State), exec (.crcByte b) s = .next t ∧ exec (.crcByte b) t = .next u ∧ u ≠ t) ∧
  (∃ (b : Byte) (s t u : State), Invariant s ∧ exec (.frameByte b) s = .next t ∧ exec (.frameByte b) t = .next u ∧ u ≠ t)

/-- 30_encoding.md R80: the three read commands drive one response word each, which RDATA then holds; every other input,
legal or illegal, drives none and leaves RDATA, but that Reset clears it (R190). -/
def Obligations.OnlyReadsDriveAResponse : Prop :=
  ∀ (s t : State) (x : Input) (rest : List Input), s.port = x :: rest → step s = .next t →
    (∀ i, inputInstr s.params x = some i → isReadCommand i = true → t.resp = some t.block.rdata) ∧
    (∀ i, inputInstr s.params x = some i → isReadCommand i = false → t.resp = none ∧ t.block.rdata = s.block.rdata) ∧
    (isIllegalWord s.params x = true → t.resp = none ∧ t.block.rdata = s.block.rdata) ∧
    (x = .reset → t.resp = none)

/-- 20_memory.md R61: the state after a sequence of inputs is the left fold of the step function over it. -/
def Obligations.RunIsLeftFoldOfSteps : Prop :=
  ∀ (s : State) (inputs rest : List Input), s.port = inputs ++ rest →
    ∃ t, Host.Core.run core inputs.length s = .next t ∧ t.port = rest ∧ t.params = s.params ∧
      t.block = inputs.foldl (fun k x => (blockStep s.params k x).1) s.block

/-- 00_scope.md R11: CMD_ACCEPT does not change the sequence of states. -/
def Obligations.CmdAcceptChangesNoState : Prop :=
  ∀ (s t : State) (a : CmdAccept), step s = .next t →
    step { s with params := { s.params with cmdAccept := a } } =
      .next { t with params := { t.params with cmdAccept := a } }

/-! ### Frames -/

/-- 41_frame.md R127: FRAME_START n and the 3n bytes of buf, with any commands but frame commands between them, leave
exactly what `decode_words` gives: the words readable in DONE, or the index in ERR and nothing readable. -/
def Obligations.FrameStreamComputesDecodeWords : Prop :=
  ∀ (s : State) (inputs rest : List Input) (n : Byte) (buf : List Byte),
    Memory.wf s.params s.block.wbuf = true → n.toNat ≤ s.params.maxWords → buf.length = 3 * n.toNat →
    s.port = inputs ++ rest → noReset inputs = true →
    streamOf s.params isFrameCommand inputs = .frameStart n :: buf.map .frameByte →
    ∃ t, Host.Core.run core inputs.length s = .next t ∧ t.port = rest ∧
      t.block.n = n ∧ t.block.widx = n ∧ t.block.pos = .high ∧ t.block.ovr = false ∧
      t.block.cmderr = (s.block.cmderr || inputs.any (isIllegalWord s.params)) ∧
      match decodeWords buf n.toNat with
      | .ok words => t.block.phase = .done ∧ words.length = n.toNat ∧
          ∀ i : Byte, i < n → ∃ v, words[i.toNat]? = some v ∧ Responds (.wordRead i) t v
      | .err j => t.block.phase = .err ∧ j < n.toNat ∧ t.block.eidx = BitVec.ofNat 8 j ∧
          ∀ i : Byte, Responds (.wordRead i) t 0x0000

/-- 41_frame.md R120, R121, R123, R125, 20_memory.md R53: the simulation behind R127, as an invariant of a step: whatever
command, illegal word or Reset comes next, the block goes on agreeing with `decode_words` on the complete triples of its
frame, which are a buffer of 3 WIDX bytes as R120's precondition asks. -/
def Obligations.StepKeepsAgreementWithDecodeWords : Prop :=
  (∀ P : Params, FrameMatches (State.resetWith P).block []) ∧
  (∀ (s t : State) (received : List Byte), Invariant s → FcrcTracks s.block → FrameMatches s.block received →
    step s = .next t → FrameMatches t.block (receivedAfter s received))

/-- 41_frame.md R130: byte k of a frame is at POS k mod 3 of triple k div 3, whatever the values of the bytes. -/
def Obligations.PositionCountsBytes : Prop :=
  ∀ (s : State) (inputs rest : List Input) (n : Byte) (bytes : List Byte),
    n.toNat ≤ s.params.maxWords → bytes.length ≤ 3 * n.toNat → s.port = inputs ++ rest → noReset inputs = true →
    streamOf s.params isFrameCommand inputs = .frameStart n :: bytes.map .frameByte →
    ∃ t, Host.Core.run core inputs.length s = .next t ∧ t.block.n = n ∧
      t.block.widx.toNat = bytes.length / 3 ∧ (posCode t.block.pos).toNat = bytes.length % 3

/-- 41_frame.md R132: after fewer than 3n bytes the frame is in RUN, or in ERR with WIDX below N; no word is readable, no
over-run is recorded, and the block does nothing of its own accord (how often an idle port steps, log entry 2). -/
def Obligations.TruncatedFrameStaysOpen : Prop :=
  ∀ (s : State) (inputs : List Input) (n : Byte) (bytes : List Byte),
    n.toNat ≤ s.params.maxWords → bytes.length < 3 * n.toNat → s.port = inputs → noReset inputs = true →
    streamOf s.params isFrameCommand inputs = .frameStart n :: bytes.map .frameByte →
    ∃ t, Host.Core.run core inputs.length s = .next t ∧
      (t.block.phase = .run ∨ t.block.phase = .err) ∧ t.block.widx < t.block.n ∧ t.block.ovr = false ∧
      (∀ i : Byte, Responds (.wordRead i) t 0x0000) ∧
      (∀ k : Nat, ∃ u, Host.Core.run core k t = .next u ∧ u.block = t.block)

/-- 70_reset_and_hazards.md R196, 41_frame.md R125 and 60_exceptions.md R173: once a frame is complete its result is fixed:
whatever comes but FRAME_START, FRAME_ABORT and Reset, further frame bytes too, PHASE, EIDX and every WORD_READ stay. -/
def Obligations.CompleteFrameResultIsFixed : Prop :=
  ∀ (s : State) (inputs rest : List Input), FrameComplete s.block → s.port = inputs ++ rest →
    (∀ x ∈ inputs, clearsFrameErrors s.params x = false) →
    ∃ t, Host.Core.run core inputs.length s = .next t ∧ t.block.phase = s.block.phase ∧
      t.block.eidx = s.block.eidx ∧ t.block.n = s.block.n ∧ t.block.wbuf = s.block.wbuf ∧
      ∀ (i : Byte) (v : Word), Responds (.wordRead i) s v → Responds (.wordRead i) t v

/-- 41_frame.md R129: FRAME_START leaves no trace of the frame before it: from two states that agree outside the frame
engine it gives states no program can tell apart. -/
def Obligations.RestartLeavesNoTrace : Prop :=
  ∀ (s u : State) (n : Byte), n.toNat ≤ s.params.maxWords →
    s.params = u.params → s.port = u.port → s.resp = u.resp → s.block.crc = u.block.crc →
    s.block.cmderr = u.block.cmderr → s.block.rdata = u.block.rdata → s.block.wbuf.length = u.block.wbuf.length →
    ∃ s' u', exec (.frameStart n) s = .next s' ∧ exec (.frameStart n) u = .next u' ∧ ObservablyEqual s' u' ∧
      s'.block.eidx = 0 ∧ s'.block.ovr = false ∧ ∀ i : Byte, Responds (.wordRead i) s' 0x0000

/-- 30_encoding.md R78, FEED_WORD: its three words deliver one valid triple: the word is stored at WIDX and the frame goes
on, or is done after its last word. -/
def Obligations.FeedWordDeliversValidTriple : Prop :=
  ∀ (s : State) (hi lo : Byte) (rest : List Input), Invariant s → s.block.phase = .run → s.block.pos = .high →
    s.port = commandInputs (expand (.feedWord hi lo)) ++ rest →
    ∃ t, Host.Core.run core 3 s = .next t ∧ t.port = rest ∧
      t.block.wbuf = s.block.wbuf.set s.block.widx.toNat (joinBytes hi lo) ∧
      readWord t.block s.block.widx.toNat = joinBytes hi lo ∧
      t.block.widx = s.block.widx + 1 ∧ t.block.pos = .high ∧ t.block.eidx = s.block.eidx ∧
      t.block.phase = if s.block.widx + 1 = s.block.n then .done else .run

/-- 30_encoding.md R78, READ_WORDS: in DONE its n words respond the first n decoded words, one after another. -/
def Obligations.ReadWordsRespondsEachWord : Prop :=
  ∀ (s : State) (n : Byte) (rest : List Input) (k : Nat), Invariant s → s.block.phase = .done → n ≤ s.block.n →
    s.port = commandInputs (expand (.readWords n)) ++ rest → k < n.toNat →
    ∃ t v, s.block.wbuf[k]? = some v ∧ Host.Core.run core (k + 1) s = .next t ∧ t.resp = some v
end

