-- ==== Sys2Proof/Laws/State.lean ====
section
/-! SUPPORT. What each update of the state leaves in each field, true by rfl, so that no later proof unfolds an update. -/

namespace Sys2Proof.Machine

@[simp] theorem raise_checksumError_crc (i : Byte) (k : Block) : (raise (.checksumError i) k).crc = k.crc := rfl
@[simp] theorem raise_checksumError_phase (i : Byte) (k : Block) : (raise (.checksumError i) k).phase = .err := rfl
@[simp] theorem raise_checksumError_n (i : Byte) (k : Block) : (raise (.checksumError i) k).n = k.n := rfl
@[simp] theorem raise_checksumError_widx (i : Byte) (k : Block) : (raise (.checksumError i) k).widx = k.widx := rfl
@[simp] theorem raise_checksumError_pos (i : Byte) (k : Block) : (raise (.checksumError i) k).pos = k.pos := rfl
@[simp] theorem raise_checksumError_hi (i : Byte) (k : Block) : (raise (.checksumError i) k).hi = k.hi := rfl
@[simp] theorem raise_checksumError_lo (i : Byte) (k : Block) : (raise (.checksumError i) k).lo = k.lo := rfl
@[simp] theorem raise_checksumError_fcrc (i : Byte) (k : Block) : (raise (.checksumError i) k).fcrc = k.fcrc := rfl
@[simp] theorem raise_checksumError_wbuf (i : Byte) (k : Block) : (raise (.checksumError i) k).wbuf = k.wbuf := rfl
@[simp] theorem raise_checksumError_eidx (i : Byte) (k : Block) : (raise (.checksumError i) k).eidx = i := rfl
@[simp] theorem raise_checksumError_ovr (i : Byte) (k : Block) : (raise (.checksumError i) k).ovr = k.ovr := rfl
@[simp] theorem raise_checksumError_cmderr (i : Byte) (k : Block) : (raise (.checksumError i) k).cmderr = k.cmderr := rfl
@[simp] theorem raise_checksumError_rdata (i : Byte) (k : Block) : (raise (.checksumError i) k).rdata = k.rdata := rfl

@[simp] theorem raise_illegalCommand_crc (k : Block) : (raise .illegalCommand k).crc = k.crc := rfl
@[simp] theorem raise_illegalCommand_phase (k : Block) : (raise .illegalCommand k).phase = k.phase := rfl
@[simp] theorem raise_illegalCommand_n (k : Block) : (raise .illegalCommand k).n = k.n := rfl
@[simp] theorem raise_illegalCommand_widx (k : Block) : (raise .illegalCommand k).widx = k.widx := rfl
@[simp] theorem raise_illegalCommand_pos (k : Block) : (raise .illegalCommand k).pos = k.pos := rfl
@[simp] theorem raise_illegalCommand_hi (k : Block) : (raise .illegalCommand k).hi = k.hi := rfl
@[simp] theorem raise_illegalCommand_lo (k : Block) : (raise .illegalCommand k).lo = k.lo := rfl
@[simp] theorem raise_illegalCommand_fcrc (k : Block) : (raise .illegalCommand k).fcrc = k.fcrc := rfl
@[simp] theorem raise_illegalCommand_wbuf (k : Block) : (raise .illegalCommand k).wbuf = k.wbuf := rfl
@[simp] theorem raise_illegalCommand_eidx (k : Block) : (raise .illegalCommand k).eidx = k.eidx := rfl
@[simp] theorem raise_illegalCommand_ovr (k : Block) : (raise .illegalCommand k).ovr = k.ovr := rfl
@[simp] theorem raise_illegalCommand_cmderr (k : Block) : (raise .illegalCommand k).cmderr = true := rfl
@[simp] theorem raise_illegalCommand_rdata (k : Block) : (raise .illegalCommand k).rdata = k.rdata := rfl

@[simp] theorem raise_overRun_crc (k : Block) : (raise .overRun k).crc = k.crc := rfl
@[simp] theorem raise_overRun_phase (k : Block) : (raise .overRun k).phase = k.phase := rfl
@[simp] theorem raise_overRun_n (k : Block) : (raise .overRun k).n = k.n := rfl
@[simp] theorem raise_overRun_widx (k : Block) : (raise .overRun k).widx = k.widx := rfl
@[simp] theorem raise_overRun_pos (k : Block) : (raise .overRun k).pos = k.pos := rfl
@[simp] theorem raise_overRun_hi (k : Block) : (raise .overRun k).hi = k.hi := rfl
@[simp] theorem raise_overRun_lo (k : Block) : (raise .overRun k).lo = k.lo := rfl
@[simp] theorem raise_overRun_fcrc (k : Block) : (raise .overRun k).fcrc = k.fcrc := rfl
@[simp] theorem raise_overRun_wbuf (k : Block) : (raise .overRun k).wbuf = k.wbuf := rfl
@[simp] theorem raise_overRun_eidx (k : Block) : (raise .overRun k).eidx = k.eidx := rfl
@[simp] theorem raise_overRun_ovr (k : Block) : (raise .overRun k).ovr = true := rfl
@[simp] theorem raise_overRun_cmderr (k : Block) : (raise .overRun k).cmderr = k.cmderr := rfl
@[simp] theorem raise_overRun_rdata (k : Block) : (raise .overRun k).rdata = k.rdata := rfl

@[simp] theorem writeWord_crc (i : Nat) (v : Word) (k : Block) : (writeWord i v k).crc = k.crc := rfl
@[simp] theorem writeWord_phase (i : Nat) (v : Word) (k : Block) : (writeWord i v k).phase = k.phase := rfl
@[simp] theorem writeWord_n (i : Nat) (v : Word) (k : Block) : (writeWord i v k).n = k.n := rfl
@[simp] theorem writeWord_widx (i : Nat) (v : Word) (k : Block) : (writeWord i v k).widx = k.widx := rfl
@[simp] theorem writeWord_pos (i : Nat) (v : Word) (k : Block) : (writeWord i v k).pos = k.pos := rfl
@[simp] theorem writeWord_hi (i : Nat) (v : Word) (k : Block) : (writeWord i v k).hi = k.hi := rfl
@[simp] theorem writeWord_lo (i : Nat) (v : Word) (k : Block) : (writeWord i v k).lo = k.lo := rfl
@[simp] theorem writeWord_fcrc (i : Nat) (v : Word) (k : Block) : (writeWord i v k).fcrc = k.fcrc := rfl
@[simp] theorem writeWord_wbuf (i : Nat) (v : Word) (k : Block) : (writeWord i v k).wbuf = k.wbuf.set i v := rfl
@[simp] theorem writeWord_eidx (i : Nat) (v : Word) (k : Block) : (writeWord i v k).eidx = k.eidx := rfl
@[simp] theorem writeWord_ovr (i : Nat) (v : Word) (k : Block) : (writeWord i v k).ovr = k.ovr := rfl
@[simp] theorem writeWord_cmderr (i : Nat) (v : Word) (k : Block) : (writeWord i v k).cmderr = k.cmderr := rfl
@[simp] theorem writeWord_rdata (i : Nat) (v : Word) (k : Block) : (writeWord i v k).rdata = k.rdata := rfl

@[simp] theorem nextTriple_crc (k : Block) : (nextTriple k).crc = k.crc := rfl
@[simp] theorem nextTriple_phase (k : Block) : (nextTriple k).phase = k.phase := rfl
@[simp] theorem nextTriple_n (k : Block) : (nextTriple k).n = k.n := rfl
@[simp] theorem nextTriple_widx (k : Block) : (nextTriple k).widx = k.widx + 1 := rfl
@[simp] theorem nextTriple_pos (k : Block) : (nextTriple k).pos = .high := rfl
@[simp] theorem nextTriple_hi (k : Block) : (nextTriple k).hi = k.hi := rfl
@[simp] theorem nextTriple_lo (k : Block) : (nextTriple k).lo = k.lo := rfl
@[simp] theorem nextTriple_fcrc (k : Block) : (nextTriple k).fcrc = k.fcrc := rfl
@[simp] theorem nextTriple_wbuf (k : Block) : (nextTriple k).wbuf = k.wbuf := rfl
@[simp] theorem nextTriple_eidx (k : Block) : (nextTriple k).eidx = k.eidx := rfl
@[simp] theorem nextTriple_ovr (k : Block) : (nextTriple k).ovr = k.ovr := rfl
@[simp] theorem nextTriple_cmderr (k : Block) : (nextTriple k).cmderr = k.cmderr := rfl
@[simp] theorem nextTriple_rdata (k : Block) : (nextTriple k).rdata = k.rdata := rfl

@[simp] theorem openFrame_crc (m : Byte) (k : Block) : (openFrame m k).crc = k.crc := rfl
@[simp] theorem openFrame_phase (m : Byte) (k : Block) : (openFrame m k).phase = if m = 0 then .done else .run := rfl
@[simp] theorem openFrame_n (m : Byte) (k : Block) : (openFrame m k).n = m := rfl
@[simp] theorem openFrame_widx (m : Byte) (k : Block) : (openFrame m k).widx = 0 := rfl
@[simp] theorem openFrame_pos (m : Byte) (k : Block) : (openFrame m k).pos = .high := rfl
@[simp] theorem openFrame_hi (m : Byte) (k : Block) : (openFrame m k).hi = k.hi := rfl
@[simp] theorem openFrame_lo (m : Byte) (k : Block) : (openFrame m k).lo = k.lo := rfl
@[simp] theorem openFrame_fcrc (m : Byte) (k : Block) : (openFrame m k).fcrc = 0xFF := rfl
@[simp] theorem openFrame_wbuf (m : Byte) (k : Block) : (openFrame m k).wbuf = k.wbuf := rfl
@[simp] theorem openFrame_eidx (m : Byte) (k : Block) : (openFrame m k).eidx = 0 := rfl
@[simp] theorem openFrame_ovr (m : Byte) (k : Block) : (openFrame m k).ovr = false := rfl
@[simp] theorem openFrame_cmderr (m : Byte) (k : Block) : (openFrame m k).cmderr = k.cmderr := rfl
@[simp] theorem openFrame_rdata (m : Byte) (k : Block) : (openFrame m k).rdata = k.rdata := rfl

@[simp] theorem acceptTriple_crc (k : Block) : (acceptTriple k).crc = k.crc := rfl
@[simp] theorem acceptTriple_phase (k : Block) : (acceptTriple k).phase = if k.widx + 1 = k.n then .done else k.phase := rfl
@[simp] theorem acceptTriple_n (k : Block) : (acceptTriple k).n = k.n := rfl
@[simp] theorem acceptTriple_widx (k : Block) : (acceptTriple k).widx = k.widx + 1 := rfl
@[simp] theorem acceptTriple_pos (k : Block) : (acceptTriple k).pos = .high := rfl
@[simp] theorem acceptTriple_hi (k : Block) : (acceptTriple k).hi = k.hi := rfl
@[simp] theorem acceptTriple_lo (k : Block) : (acceptTriple k).lo = k.lo := rfl
@[simp] theorem acceptTriple_fcrc (k : Block) : (acceptTriple k).fcrc = k.fcrc := rfl
@[simp] theorem acceptTriple_wbuf (k : Block) : (acceptTriple k).wbuf = k.wbuf.set (storeIndex k) (joinBytes k.hi k.lo) := rfl
@[simp] theorem acceptTriple_eidx (k : Block) : (acceptTriple k).eidx = k.eidx := rfl
@[simp] theorem acceptTriple_ovr (k : Block) : (acceptTriple k).ovr = k.ovr := rfl
@[simp] theorem acceptTriple_cmderr (k : Block) : (acceptTriple k).cmderr = k.cmderr := rfl
@[simp] theorem acceptTriple_rdata (k : Block) : (acceptTriple k).rdata = k.rdata := rfl

@[simp] theorem rejectTriple_crc (k : Block) : (rejectTriple k).crc = k.crc := rfl
@[simp] theorem rejectTriple_phase (k : Block) : (rejectTriple k).phase = .err := rfl
@[simp] theorem rejectTriple_n (k : Block) : (rejectTriple k).n = k.n := rfl
@[simp] theorem rejectTriple_widx (k : Block) : (rejectTriple k).widx = k.widx + 1 := rfl
@[simp] theorem rejectTriple_pos (k : Block) : (rejectTriple k).pos = .high := rfl
@[simp] theorem rejectTriple_hi (k : Block) : (rejectTriple k).hi = k.hi := rfl
@[simp] theorem rejectTriple_lo (k : Block) : (rejectTriple k).lo = k.lo := rfl
@[simp] theorem rejectTriple_fcrc (k : Block) : (rejectTriple k).fcrc = k.fcrc := rfl
@[simp] theorem rejectTriple_wbuf (k : Block) : (rejectTriple k).wbuf = k.wbuf := rfl
@[simp] theorem rejectTriple_eidx (k : Block) : (rejectTriple k).eidx = k.widx := rfl
@[simp] theorem rejectTriple_ovr (k : Block) : (rejectTriple k).ovr = k.ovr := rfl
@[simp] theorem rejectTriple_cmderr (k : Block) : (rejectTriple k).cmderr = k.cmderr := rfl
@[simp] theorem rejectTriple_rdata (k : Block) : (rejectTriple k).rdata = k.rdata := rfl

@[simp] theorem closeFrame_crc (k : Block) : (closeFrame k).crc = k.crc := rfl
@[simp] theorem closeFrame_phase (k : Block) : (closeFrame k).phase = .idle := rfl
@[simp] theorem closeFrame_n (k : Block) : (closeFrame k).n = 0 := rfl
@[simp] theorem closeFrame_widx (k : Block) : (closeFrame k).widx = 0 := rfl
@[simp] theorem closeFrame_pos (k : Block) : (closeFrame k).pos = .high := rfl
@[simp] theorem closeFrame_hi (k : Block) : (closeFrame k).hi = k.hi := rfl
@[simp] theorem closeFrame_lo (k : Block) : (closeFrame k).lo = k.lo := rfl
@[simp] theorem closeFrame_fcrc (k : Block) : (closeFrame k).fcrc = 0xFF := rfl
@[simp] theorem closeFrame_wbuf (k : Block) : (closeFrame k).wbuf = k.wbuf := rfl
@[simp] theorem closeFrame_eidx (k : Block) : (closeFrame k).eidx = 0 := rfl
@[simp] theorem closeFrame_ovr (k : Block) : (closeFrame k).ovr = false := rfl
@[simp] theorem closeFrame_cmderr (k : Block) : (closeFrame k).cmderr = false := rfl
@[simp] theorem closeFrame_rdata (k : Block) : (closeFrame k).rdata = k.rdata := rfl

@[simp] theorem respond_params (v : Word) (s : State) : (respond v s).params = s.params := rfl
@[simp] theorem respond_block (v : Word) (s : State) : (respond v s).block = { s.block with rdata := v } := rfl
@[simp] theorem respond_port (v : Word) (s : State) : (respond v s).port = s.port := rfl
@[simp] theorem respond_resp (v : Word) (s : State) : (respond v s).resp = some v := rfl

@[simp] theorem idleStep_params (s : State) : (idleStep s).params = s.params := rfl
@[simp] theorem idleStep_block (s : State) : (idleStep s).block = s.block := rfl
@[simp] theorem idleStep_port (s : State) : (idleStep s).port = s.port := rfl
@[simp] theorem idleStep_resp (s : State) : (idleStep s).resp = none := rfl

@[simp] theorem placeCommand_params (w : Word) (s : State) : (placeCommand w s).params = s.params := rfl
@[simp] theorem placeCommand_block (w : Word) (s : State) : (placeCommand w s).block = s.block := rfl
@[simp] theorem placeCommand_port (w : Word) (s : State) : (placeCommand w s).port = .command w :: s.port := rfl
@[simp] theorem placeCommand_resp (w : Word) (s : State) : (placeCommand w s).resp = s.resp := rfl

@[simp] theorem resetBlock_params (s : State) : (resetBlock s).params = s.params := rfl
@[simp] theorem resetBlock_block (s : State) : (resetBlock s).block = Block.reset s.params := rfl
@[simp] theorem resetBlock_port (s : State) : (resetBlock s).port = s.port := rfl
@[simp] theorem resetBlock_resp (s : State) : (resetBlock s).resp = s.resp := rfl

@[simp] theorem illegalWord_params (s : State) : (illegalWord s).params = s.params := rfl
@[simp] theorem illegalWord_block (s : State) : (illegalWord s).block = { s.block with cmderr := true } := rfl
@[simp] theorem illegalWord_port (s : State) : (illegalWord s).port = s.port := rfl
@[simp] theorem illegalWord_resp (s : State) : (illegalWord s).resp = s.resp := rfl

end Sys2Proof.Machine
end

