-- ==== Sys2Proof/Laws/Ops.lean ====
section
/-! SUPPORT. One lemma per shared operation, saying once what it can do, and that every operation keeps `Memory.wf`. -/

namespace Sys2Proof.Machine

theorem takeInput_idle {s : State} (h : s.port = []) : takeInput s = none := by simp [takeInput, h]

theorem takeInput_next {s : State} {x : Input} {rest : List Input} (h : s.port = x :: rest) :
    takeInput s = some (x, { s with port := rest, resp := none }) := by simp [takeInput, h]

theorem takeInput_placeCommand (w : Word) (s : State) :
    takeInput (placeCommand w s) = some (.command w, { s with resp := none }) := rfl

theorem Memory.wf_iff (P : Params) (m : Memory) : Memory.wf P m = true ↔ m.length = P.maxWords := by
  simp [Memory.wf]

/-- Reading back the entry written, where WBUF has it. -/
theorem readWord_writeWord_same {k : Block} {i : Nat} (h : i < k.wbuf.length) (v : Word) :
    readWord (writeWord i v k) i = v := by simp [readWord, h]

/-- A write leaves every other entry alone. -/
theorem readWord_writeWord_other {i j : Nat} (h : j ≠ i) (v : Word) (k : Block) :
    readWord (writeWord i v k) j = readWord k j := by
  simp [readWord, List.getD_eq_getElem?_getD, List.getElem?_set_ne (Ne.symm h)]

theorem writeWord_size (i : Nat) (v : Word) (k : Block) :
    (writeWord i v k).wbuf.length = k.wbuf.length := by simp

/-- Everything a frame byte can do, with the condition of each case. -/
theorem frameByte_cases (b : Byte) (k : Block) :
    (¬ ByteExpected k ∧ frameByte b k = raise .overRun k) ∨
    (k.phase = .err ∧ k.widx ≠ k.n ∧ frameByte b k = drainByte k) ∨
    (k.phase = .run ∧ k.pos = .high ∧ frameByte b k = { k with hi := b, fcrc := crc8Update 0xFF b, pos := .low }) ∨
    (k.phase = .run ∧ k.pos = .low ∧ frameByte b k = { k with lo := b, fcrc := crc8Update k.fcrc b, pos := .check }) ∨
    (k.phase = .run ∧ k.pos = .check ∧ b = k.fcrc ∧ frameByte b k = acceptTriple k) ∨
    (k.phase = .run ∧ k.pos = .check ∧ b ≠ k.fcrc ∧ frameByte b k = rejectTriple k) := by
  cases hp : k.phase <;> cases hq : k.pos <;> by_cases hw : k.widx = k.n <;> by_cases hb : b = k.fcrc <;>
    simp [frameByte, triageByte, ByteExpected, hp, hq, hw, hb]

/-- A drained byte moves the position only. -/
theorem drainByte_cases (k : Block) :
    (k.pos = .check ∧ drainByte k = nextTriple k) ∨
    (k.pos ≠ .check ∧ drainByte k = { k with pos := nextPos k.pos }) := by
  by_cases h : k.pos = .check <;> simp [drainByte, h]

theorem frameByte_size (b : Byte) (k : Block) : (frameByte b k).wbuf.length = k.wbuf.length := by
  obtain ⟨-, h⟩ | ⟨-, -, h⟩ | ⟨-, -, h⟩ | ⟨-, -, h⟩ | ⟨-, -, -, h⟩ | ⟨-, -, -, h⟩ := frameByte_cases b k
  · simp [h]
  · obtain ⟨-, h'⟩ | ⟨-, h'⟩ := drainByte_cases k <;> simp [h, h']
  · simp [h]
  · simp [h]
  · simp [h]
  · simp [h]

/-- What every instruction's next state shares with the state before it: the parameters, the inputs still waiting, and the
size of WBUF. -/
theorem exec_keeps {i : Instr} {s t : State} (h : exec i s = .next t) :
    t.params = s.params ∧ t.port = s.port ∧ t.block.wbuf.length = s.block.wbuf.length := by
  cases i with
  | frameStart n =>
    cases h
    refine ⟨rfl, rfl, ?_⟩
    by_cases hn : wordCount n ≤ s.params.maxWords <;> simp [hn]
  | frameByte b => cases h; exact ⟨rfl, rfl, frameByte_size b s.block⟩
  | _ => cases h; exact ⟨rfl, rfl, rfl⟩

theorem exec_keeps_memory {i : Instr} {s t : State} (h : exec i s = .next t)
    (hm : Memory.wf s.params s.block.wbuf = true) : Memory.wf t.params t.block.wbuf = true := by
  obtain ⟨hp, -, hl⟩ := exec_keeps h
  rw [Memory.wf_iff] at *
  rw [hl, hp, hm]

theorem writeWord_keeps_memory {P : Params} {k : Block} (hm : Memory.wf P k.wbuf = true) (i : Nat) (v : Word) :
    Memory.wf P (writeWord i v k).wbuf = true := by
  rw [Memory.wf_iff] at *
  rw [writeWord_size, hm]

theorem reset_memory (P : Params) : Memory.wf P (Block.reset P).wbuf = true := by
  simp [Memory.wf, Block.reset]

end Sys2Proof.Machine
end

