-- ==== Sys2Proof/Laws/PerInstr.lean ====
section
/-! SUPPORT. Statements about every instruction as syntax, one lemma per constructor. -/

namespace Sys2Proof.Laws.FieldsOfEncoding

/-- The encoded word's three fields are the opcode, zero and the operand (30_encoding.md R70, R72). -/
def Statement (i : Instr) : Prop :=
  fieldOp (encode i) = opcode i ∧ fieldRsv (encode i) = 0 ∧ fieldArg (encode i) = operand i

theorem of_fields (op : BitVec 4) (arg : Byte) :
    fieldOp ((op.setWidth 16 <<< 12) ||| arg.setWidth 16) = op ∧
      fieldRsv ((op.setWidth 16 <<< 12) ||| arg.setWidth 16) = 0 ∧
      fieldArg ((op.setWidth 16 <<< 12) ||| arg.setWidth 16) = arg := by
  refine ⟨?_, ?_, ?_⟩ <;> ext j hj <;> simp [fieldOp, fieldRsv, fieldArg] <;> grind

theorem nop : Statement .nop := of_fields _ _
theorem crcInit : Statement .crcInit := of_fields _ _
theorem crcByte (b : Byte) : Statement (.crcByte b) := of_fields _ _
theorem crcRead : Statement .crcRead := of_fields _ _
theorem frameStart (n : Byte) : Statement (.frameStart n) := of_fields _ _
theorem frameByte (b : Byte) : Statement (.frameByte b) := of_fields _ _
theorem frameAbort : Statement .frameAbort := of_fields _ _
theorem statusRead : Statement .statusRead := of_fields _ _
theorem wordRead (j : Byte) : Statement (.wordRead j) := of_fields _ _

end Sys2Proof.Laws.FieldsOfEncoding
end

