-- ==== Sys2Proof/Laws/Step.lean ====
section
/-! SUPPORT. What a step can do, said once. -/

namespace Sys2Proof.Machine

/-- The four kinds of step: an idle port, Reset, a legal command, an illegal word. -/
theorem step_cases {s t : State} (h : step s = .next t) :
    (s.port = [] ∧ t = idleStep s) ∨
    (∃ rest, s.port = .reset :: rest ∧ t = resetBlock { s with port := rest, resp := none }) ∨
    (∃ w rest i, s.port = .command w :: rest ∧ decode s.params w = some i ∧
      exec i { s with port := rest, resp := none } = .next t) ∨
    (∃ w rest, s.port = .command w :: rest ∧ decode s.params w = none ∧
      t = illegalWord { s with port := rest, resp := none }) := by
  cases hp : s.port with
  | nil =>
    rw [step, takeInput_idle hp] at h
    cases h
    exact .inl ⟨rfl, rfl⟩
  | cons x rest =>
    rw [step, takeInput_next hp] at h
    cases x with
    | reset => cases h; exact .inr (.inl ⟨rest, rfl, rfl⟩)
    | command w =>
      cases hd : decode s.params w with
      | none => simp only [hd] at h; cases h; exact .inr (.inr (.inr ⟨w, rest, rfl, hd, rfl⟩))
      | some i => simp only [hd] at h; exact .inr (.inr (.inl ⟨w, rest, i, rfl, hd, h⟩))

/-- No step changes the parameters. -/
theorem step_keeps_params {s t : State} (h : step s = .next t) : t.params = s.params := by
  obtain ⟨-, rfl⟩ | ⟨_, -, rfl⟩ | ⟨_, _, _, -, -, h⟩ | ⟨_, _, -, -, rfl⟩ := step_cases h
  · rfl
  · rfl
  · exact (exec_keeps h).1
  · rfl

end Sys2Proof.Machine
end

