-- ==== Sys2Proof/Tests/Slice0.lean ====
section
/-! SUPPORT. Tests against the spec's own vectors (95_test_vectors.md), and for every statement with hypotheses a named
theorem that shows concrete data meeting all of them. -/

namespace Sys2Proof.Tests

open Sys2Proof Sys2Proof.Machine

/-- The state an instruction leaves. -/
def after (i : Instr) (s : State) : Option State :=
  match exec i s with
  | .next t => some t
  | .fault _ => none
  | .refused _ => none

/-- The state one step leaves. -/
def stepped (s : State) : Option State :=
  match step s with
  | .next t => some t
  | .fault _ => none
  | .refused _ => none

/-- Reset with another block and the words waiting on the port. -/
def start (k : Block) (words : List Word) : State :=
  { State.reset with block := k, port := words.map .command }

/-- The block right after reset, at MAX_WORDS = 16. -/
def fresh : Block := Block.reset Params.reference

/-- RUN at POS 2 with the triple BE EF latched (95 2.6, rows 3 to 6), N = n, WIDX = 0. -/
def atCheck (n : Byte) : Block :=
  { fresh with phase := .run, n := n, pos := .check, hi := 0xBE, lo := 0xEF, fcrc := 0x92 }

/-- DONE with one word BEEF (95 2.6, row 12). -/
def doneBeef : Block :=
  { fresh with phase := .done, n := 1, widx := 1, hi := 0xBE, lo := 0xEF, fcrc := 0x92,
               wbuf := 0xBEEF :: List.replicate 15 0 }

/-- ERR with N = 3, EIDX = 0 and w triples received. -/
def errAt (w : Byte) (p : Pos) : Block :=
  { fresh with phase := .err, n := 3, widx := w, pos := p }

/-! ### WellFormed: the one check, and an ill-formed term it refuses -/

theorem test_wellFormed_count_16 : wellFormed Params.reference (.frameStart 16) = true := by decide
theorem test_wellFormed_refuses_count_17 : wellFormed Params.reference (.frameStart 17) = false := by decide
theorem test_wellFormed_count_255_at_255 :
    wellFormed { maxWords := 255, cmdAccept := .stall } (.frameStart 255) = true := by decide
theorem test_params_refuses_15 : Params.wf { maxWords := 15, cmdAccept := .stall } = false := by decide
theorem test_params_refuses_256 : Params.wf { maxWords := 256, cmdAccept := .stall } = false := by decide

/-! ### Decoding, words written out bit by bit from 30_encoding.md R70 and R72 -/

theorem test_decode_nop : decode Params.reference 0b0000_0000_00000000#16 = some .nop := by decide
theorem test_decode_crcInit : decode Params.reference 0b0001_0000_00000000#16 = some .crcInit := by decide
theorem test_decode_crcByte : decode Params.reference 0b0010_0000_10111110#16 = some (.crcByte 0xBE) := by decide
theorem test_decode_crcRead : decode Params.reference 0b0011_0000_00000000#16 = some .crcRead := by decide
theorem test_decode_frameStart : decode Params.reference 0b0100_0000_00000011#16 = some (.frameStart 3) := by decide
theorem test_decode_frameByte : decode Params.reference 0b0101_0000_11101111#16 = some (.frameByte 0xEF) := by decide
theorem test_decode_frameAbort : decode Params.reference 0b0110_0000_00000000#16 = some .frameAbort := by decide
theorem test_decode_statusRead : decode Params.reference 0b0111_0000_00000000#16 = some .statusRead := by decide
theorem test_decode_wordRead : decode Params.reference 0b1000_0000_11111111#16 = some (.wordRead 255) := by decide

/-- 95 2.9: the four reasons of R74. -/
theorem test_decode_illegal :
    decodeNamed Params.reference 0x0100 = .illegal .rsvNonzero ∧
    decodeNamed Params.reference 0x9000 = .illegal .opReserved ∧
    decodeNamed Params.reference 0x3001 = .illegal .argNonzero ∧
    decodeNamed Params.reference 0x4011 = .illegal .countAboveMax := by decide

/-- 95 2.5: with MAX_WORDS = 255, 0x40FF is FRAME_START 255. -/
theorem test_decode_40FF_at_255 :
    decode { maxWords := 255, cmdAccept := .stall } 0x40FF = some (.frameStart 255) := by decide

theorem test_encode : [Instr.nop, .crcByte 0xBE, .frameStart 3, .frameByte 0x92, .wordRead 2].map encode =
    [0x0000, 0x20BE, 0x4003, 0x5092, 0x8002] := by decide

theorem test_decodeTableWord : decodeTableWord 16 0x50BE = some (.frameByte 0xBE) := by decide

/-- The word placed for the fetch is the one the next step runs. -/
theorem test_withFetchWord :
    (stepped (State.reset.withFetchWord 16 0x20BE)).map (·.block.crc) = some 0x0C := by decide

/-! ### The checksum (95 E1, 2.1, 2.3) -/

theorem test_crc8_E1 : crc8Shifts 3 0x41 = 0x6A ∧ crc8Update 0xFF 0xBE = 0x0C ∧ crc8Update 0x0C 0xEF = 0x92 := by decide
theorem test_crc8_row_F : (List.range 16).map (fun j => crc8Update 0x00 (BitVec.ofNat 8 (0xF0 + j))) =
    [0x82, 0xB3, 0xE0, 0xD1, 0x46, 0x77, 0x24, 0x15, 0x3B, 0x0A, 0x59, 0x68, 0xFF, 0xCE, 0x9D, 0xAC] := by decide
theorem test_checksum_order : checksum [0x00, 0x01] = 0xB0 ∧ checksum [0x01, 0x00] = 0x75 ∧
    checksum [0xEF, 0xBE] = 0xCE ∧ checksum [0x44, 0x8A] = 0x2A := by decide +kernel

/-- 95 P4: a mismatch at triple 1; 95 E4: two valid triples; 95 2.6 row 15: swapped bytes. -/
theorem test_decodeWords :
    decodeWords [0x00, 0x01, 0xB0, 0x12, 0x34, 0x38] 2 = .err 1 ∧
    decodeWords [0xBE, 0xEF, 0x92, 0xBE, 0xEF, 0x92] 2 = .ok [0xBEEF, 0xBEEF] ∧
    decodeWords [0xEF, 0xBE, 0x92] 1 = .err 0 ∧ decodeWords [] 0 = .ok [] := by decide +kernel

/-! ### The commands, one step each -/

/-- 42 R150: a NOP word leaves RDATA and every flag. -/
theorem test_nop : (stepped (start { fresh with rdata := 0x1234, ovr := true } [0x0000])).map
    (fun t => (t.block.rdata, t.block.ovr, t.resp)) = some (0x1234, true, none) := by decide

/-- 95 2.4. -/
theorem test_crcInit : (after .crcInit (start { fresh with crc := 0x92 } [])).map (·.block.crc) = some 0xFF := by decide
theorem test_crcByte : (after (.crcByte 0xEF) (start { fresh with crc := 0x0C } [])).map (·.block.crc) = some 0x92 := by
  decide
theorem test_crcByte_fixed_point :
    (after (.crcByte 0x00) (start { fresh with crc := 0xEF } [])).map (·.block.crc) = some 0xEF := by decide
theorem test_crcRead : (after .crcRead (start { fresh with crc := 0x92 } [])).map
    (fun t => (t.resp, t.block.rdata, t.block.crc)) = some (some 0x0092, 0x0092, 0x92) := by decide

/-- 95 2.5: a restart clears EIDX and OVR, keeps CMDERR and HI. -/
theorem test_frameStart_restart :
    (after (.frameStart 1) (start { errAt 3 .high with eidx := 2, ovr := true, cmderr := true, hi := 0x12 } [])).map
      (fun t => (t.block.phase, t.block.n, t.block.eidx, t.block.ovr, t.block.cmderr, t.block.hi)) =
    some (.run, 1, 0, false, true, 0x12) := by decide
/-- 95 2.5: 0x4011 is illegal and leaves the open frame. -/
theorem test_frameStart_17 : (stepped (start { atCheck 3 with widx := 1 } [0x4011])).map
    (fun t => (t.block.cmderr, t.block.phase, t.block.n, t.block.widx, t.block.pos)) =
    some (true, .run, 3, 1, .check) := by decide

/-- 95 2.6 rows 3 and 5. -/
theorem test_frameByte_match : (after (.frameByte 0x92) (start (atCheck 1) [])).map
    (fun t => (t.block.wbuf.getD 0 0, t.block.widx, t.block.pos, t.block.phase)) =
    some (0xBEEF, 1, .high, .done) := by decide
theorem test_frameByte_mismatch : (after (.frameByte 0x93) (start (atCheck 1) [])).map
    (fun t => (t.block.wbuf.getD 0 0, t.block.widx, t.block.pos, t.block.phase, t.block.eidx)) =
    some (0x0000, 1, .high, .err, 0) := by decide

/-- 95 2.7. -/
theorem test_frameAbort : (after .frameAbort (start { errAt 3 .high with eidx := 2, ovr := true, cmderr := true } [])).map
    (fun t => (statusWord t.block, t.block.n, t.block.widx)) = some (0x0000, 0, 0) := by decide
theorem test_frameAbort_keeps_words :
    (after .frameAbort (start doneBeef [])).map (fun t => (t.block.wbuf.getD 0 0, gatedWord t.block 0)) =
    some (0xBEEF, 0x0000) := by decide

/-- 95 2.8. -/
theorem test_statusRead : (after .statusRead (start { errAt 3 .high with eidx := 5, ovr := true } [])).map (·.resp) =
    some (some 0x0507) := by decide
theorem test_statusRead_flags : (after .statusRead (start { fresh with ovr := true, cmderr := true } [])).map (·.resp) =
    some (some 0x000C) := by decide
theorem test_wordRead : [0, 1, 255].map (fun i => (after (.wordRead i) (start doneBeef [])).map (·.resp)) =
    [some (some 0xBEEF), some (some 0x0000), some (some 0x0000)] := by decide
theorem test_wordRead_gated : (after (.wordRead 0) (start { doneBeef with phase := .err } [])).map (·.resp) =
    some (some 0x0000) := by decide

/-! ### The assembler (30 R77, R78) -/

theorem test_assemble_comment :
    assembleLine Params.reference "CRC_BYTE 0xBE       ; 0x20BE  CRC = 0x0C".toList = some [0x20BE] := by decide
theorem test_assemble_refuses :
    assembleLine Params.reference "FRAME_START 17".toList = none ∧
    assembleLine Params.reference "FRAME_BYTE 256".toList = none ∧
    assembleLine Params.reference "NOP 0".toList = none := by decide
/-- 95 part 3: the spec's own spellings. -/
theorem test_assemble_plain_decimal :
    assembleLine Params.reference "FRAME_START 3        ; 0x4003".toList = some [0x4003] ∧
    assembleLine Params.reference "WORD_READ 0".toList = some [0x8000] := by decide +kernel
/-- The model's choices for READ_WORDS (log entry 7). -/
theorem test_assemble_readWords_range :
    assembleLine Params.reference "READ_WORDS 0".toList = some [] ∧
    assembleLine Params.reference "READ_WORDS 256".toList = none ∧
    (assembleLine Params.reference "READ_WORDS 17".toList).isSome = true := by decide +kernel
theorem test_assemble_pseudo :
    assembleLine Params.reference "FEED_WORD 0x02, 0x00".toList = some [0x5002, 0x5000, 0x5058] ∧
    assembleLine Params.reference "CHECKSUM 0xBE, 0xEF".toList = some [0x1000, 0x20BE, 0x20EF, 0x3000] ∧
    assembleLine Params.reference "READ_WORDS 2".toList = some [0x8000, 0x8001] := by decide +kernel

/-! ### Witnesses: every hypothesis can be met -/

/-- Whatever the step, it answers a next state: the hypothesis `step s = .next t` of many statements. -/
theorem witness_step (s : State) (h : ∃ t, stepped s = some t) : ∃ t, step s = .next t := by
  obtain ⟨t, h⟩ := h
  unfold stepped at h
  cases hs : step s with
  | next u => exact ⟨u, rfl⟩
  | fault r => rw [hs] at h; cases h
  | refused r => rw [hs] at h; cases h

theorem witness_DecodeIsInverseOfEncode :
    wellFormed Params.reference (.frameStart 16) = true ∧ encode (.frameStart 16) = 0x4010 ∧
    decode Params.reference 0x4010 = some (.frameStart 16) := by decide

theorem witness_LegalWordsAreThoseOfR73 : Params.reference.maxWords = 16 := rfl

theorem witness_IllegalWordOnlySetsCmdErr :
    ((start fresh [0xF0FF]).port = .command 0xF0FF :: [] ∧ decode (start fresh [0xF0FF]).params 0xF0FF = none) ∧
    (0x8F00#16).extractLsb' 8 4 ≠ 0#4 ∧ 0x9#4 ≤ (0x9000#16).extractLsb' 12 4 ∧
    ((0x7001#16).extractLsb' 0 8 ≠ 0#8 ∧ (0x7001#16).extractLsb' 12 4 = 0x7#4) ∧
    ((0x0001#16).extractLsb' 0 8 ≠ 0#8 ∧ (0x0001#16).extractLsb' 12 4 = 0x0#4) ∧
    ((0x4011#16).extractLsb' 12 4 = 0x4#4 ∧ Params.reference.maxWords < ((0x4011#16).extractLsb' 0 8).toNat) := by
  decide

theorem witness_StepRunsDecodedCommand :
    (start fresh [0x20BE]).port = .command 0x20BE :: [] ∧
    decode (start fresh [0x20BE]).params 0x20BE = some (.crcByte 0xBE) := by decide

theorem witness_IdlePortChangesNothing : State.reset.port = [] := rfl

theorem witness_WordsOfTheOpcodeMapDecode : Params.reference.maxWords = 16 := rfl

theorem witness_DriverFrameSizesAreLegal :
    Params.reference.wf = true ∧ ((16 : Byte) = 1 ∨ (16 : Byte) = 3 ∨ (16 : Byte) = 8 ∨ (16 : Byte) = 16) := by decide

/-- `16` in decimal. -/
theorem numeral_16 : Numeral "16".toList 16 :=
  .inl ⟨[1, 6], by decide, .cons ⟨by decide, .inl (by decide)⟩ (.cons ⟨by decide, .inl (by decide)⟩ .nil), by decide⟩

/-- `0xFf` in hexadecimal, a letter in each case. -/
theorem numeral_0xFf : Numeral "0xFf".toList 255 :=
  .inr ⟨"Ff".toList, [15, 15], by decide, by decide,
    .cons ⟨by decide, .inr (by decide)⟩ (.cons ⟨by decide, .inl (by decide)⟩ .nil), by decide⟩

theorem numeral_256 : Numeral "256".toList 256 :=
  .inl ⟨[2, 5, 6], by decide,
    .cons ⟨by decide, .inl (by decide)⟩ (.cons ⟨by decide, .inl (by decide)⟩
      (.cons ⟨by decide, .inl (by decide)⟩ .nil)), by decide⟩

theorem lineEnd_nil : LineEnd [] := ⟨[], [], rfl, rfl, .inl rfl⟩

theorem lineEnd_comment : LineEnd "  ; the largest".toList :=
  ⟨"  ".toList, "; the largest".toList, by decide, by decide, .inr ⟨" the largest".toList, by decide⟩⟩

/-- At MAX_WORDS and above it, a pseudo-instruction with two operands, an operand of 256, and an operand too many. -/
theorem witness_AssemblerEncodesCommandAndPseudoLines :
    (wellFormed Params.reference (.frameStart 16) = true ∧
      Spells "FRAME_START 16  ; the largest".toList (mnemonicText (.frameStart 16))
        ((lineOperands (.frameStart 16)).map BitVec.toNat)) ∧
    (pseudoAllowed Params.reference (.checksum [0xFF, 0x10]) = true ∧
      Spells "CHECKSUM 0xFf, 16".toList (pseudoText (.checksum [0xFF, 0x10]))
        ((pseudoOperands (.checksum [0xFF, 0x10])).map BitVec.toNat)) ∧
    (Params.reference.maxWords < (255 : Byte).toNat ∧
      Spells "FRAME_START 0xFf".toList (mnemonicText (.frameStart 255)) [(255 : Byte).toNat]) ∧
    (255 < 256 ∧ Spells "CRC_BYTE 256".toList (mnemonicText (.crcByte 0)) [256]) ∧
    ([16].length ≠ (lineOperands .nop).length ∧ Spells "NOP 16".toList (mnemonicText .nop) [16]) :=
  ⟨⟨by decide, ["16".toList], "  ; the largest".toList, .cons numeral_16 .nil, lineEnd_comment, by decide⟩,
    ⟨by decide, ["0xFf".toList, "16".toList], [], .cons numeral_0xFf (.cons numeral_16 .nil), lineEnd_nil, by decide⟩,
    ⟨by decide, ["0xFf".toList], [], .cons numeral_0xFf .nil, lineEnd_nil, by decide⟩,
    ⟨by decide, ["256".toList], [], .cons numeral_256 .nil, lineEnd_nil, by decide⟩,
    ⟨by decide, ["16".toList], [], .cons numeral_16 .nil, lineEnd_nil, by decide⟩⟩

theorem witness_ResetSetsEveryField :
    ({ start doneBeef [] with port := [.reset] } : State).port = .reset :: [] ∧
    ({ start doneBeef [] with port := [.reset] } : State).params.wf = true ∧
    ∃ t, step { start doneBeef [] with port := [.reset] } = .next t := ⟨rfl, by decide, _, rfl⟩

theorem witness_ResetMeetsInvariant :
    Params.reference.wf = true ∧ Params.wf { maxWords := 255, cmdAccept := .hostWaits } = true := by decide

/-- The invariants hold of a state in RUN, and the step from it can complete the frame. -/
theorem invariant_atCheck : Invariant (start (atCheck 1) [0x5092]) :=
  ⟨by decide, by decide, by decide, by decide, by decide, by decide, by decide, by decide, by decide, by decide⟩

/-- The invariants hold of a state in DONE. -/
theorem invariant_doneBeef (words : List Word) : Invariant (start doneBeef words) where
  params := by simp only [start]; decide
  buffer := by simp only [start]; decide
  i1 := by simp only [start]; decide
  i2 := by simp only [start]; decide
  i3 := by simp only [start]; decide
  i4 := by simp only [start]; decide
  i5 := by simp only [start]; decide
  i6 := by simp only [start]; decide
  i7 := by simp only [start]; decide
  i8 := by simp only [start]; decide

/-- The invariants hold of a state in ERR. -/
theorem invariant_errAt : Invariant (start { errAt 3 .high with eidx := 2, ovr := true } [0x7000]) :=
  ⟨by decide, by decide, by decide, by decide, by decide, by decide, by decide, by decide, by decide, by decide⟩

theorem witness_StepKeepsInvariant :
    Invariant (start (atCheck 1) [0x5092]) ∧ ∃ t, step (start (atCheck 1) [0x5092]) = .next t :=
  ⟨invariant_atCheck, witness_step _ ⟨_, rfl⟩⟩

theorem witness_DoneWordsWereWrittenInFrame :
    Invariant (start (atCheck 1) [0x5092]) ∧ WrittenInFrame (atCheck 1) [] ∧
    ∃ t, step (start (atCheck 1) [0x5092]) = .next t :=
  ⟨invariant_atCheck, ⟨fun _ i h => absurd h (by simp [atCheck, fresh, Block.reset]), fun h => absurd h (by decide)⟩,
    witness_step _ ⟨_, rfl⟩⟩

theorem fcrcTracks_atCheck : FcrcTracks (atCheck 1) := ⟨by decide, by decide +kernel⟩

theorem witness_StepKeepsFcrcOfTriple :
    FcrcTracks (atCheck 1) ∧ ∃ t, step (start (atCheck 1) [0x7000]) = .next t :=
  ⟨fcrcTracks_atCheck, witness_step _ ⟨_, rfl⟩⟩

/-- Two states that differ in a stale word and a stale latch. -/
theorem witness_StaleStateIsUnobservable :
    ObservablyEqual (start { fresh with hi := 0x12, wbuf := 0xBEEF :: List.replicate 15 0 } [0x4001])
      (start fresh [0x4001]) := by
  constructor <;> first | rfl | exact fun h => absurd h (by decide)

theorem witness_UndetectedErrorsFlipFourBits :
    crc8Update 0x00 0x01 = 0x31 ∧ ¬ ((0x01 : Byte) = 0 ∧ (0x31 : Byte) = 0) := by decide

theorem witness_SingleBitFlipIsDetected :
    15 < 16 ∧ 7 < 8 ∧ (start (atCheck 1) []).block.phase = .run ∧ (start (atCheck 1) []).block.pos = .check ∧
    FcrcTracks (start (atCheck 1) []).block :=
  ⟨by decide, by decide, rfl, rfl, fcrcTracks_atCheck⟩

/-- With a frame byte and an illegal word interleaved, and without CRC_INIT after reset. -/
theorem witness_ChecksumStreamRespondsChecksum :
    ((start fresh [0x1000, 0x50AA, 0x20BE, 0x9000, 0x20EF, 0x3000]).port =
      [.command 0x1000, .command 0x50AA, .command 0x20BE, .command 0x9000, .command 0x20EF] ++ .command 0x3000 :: [] ∧
    noReset [.command 0x1000, .command 0x50AA, .command 0x20BE, .command 0x9000, .command 0x20EF] = true ∧
    streamOf Params.reference isCrcCommand
      [.command 0x1000, .command 0x50AA, .command 0x20BE, .command 0x9000, .command 0x20EF] =
      .crcInit :: [0xBE, 0xEF].map .crcByte) ∧
    ((start fresh [0x20BE, 0x3000]).block.crc = 0xFF ∧
    streamOf Params.reference isCrcCommand [.command 0x20BE] = [0xBE].map .crcByte) := by decide

theorem witness_EnginesAreIndependent :
    (isCrcCommand (.crcByte 1) = true ∧ ∃ t, exec (.crcByte 1) (start (atCheck 1) []) = .next t) ∧
    (isCrcCommand (.frameByte 1) = false ∧ ∃ t, exec (.frameByte 1) (start (atCheck 1) []) = .next t) ∧
    (start fresh [0x9000]).port = .command 0x9000 :: [] ∧ decode (start fresh [0x9000]).params 0x9000 = none :=
  ⟨⟨rfl, _, rfl⟩, ⟨rfl, _, rfl⟩, rfl, by decide⟩

theorem witness_NopDoesNothing :
    (0x00FF#16).extractLsb' 12 4 = (0x0000#16).extractLsb' 12 4 ∧
    (start fresh [0x0000]).port = .command 0x0000 :: [] := by decide

theorem witness_CrcInitWritesFF :
    (0x1001#16).extractLsb' 12 4 = (0x1000#16).extractLsb' 12 4 ∧
    (start fresh [0x1000]).port = .command 0x1000 :: [] ∧ ∃ t, exec .crcInit (start fresh []) = .next t :=
  ⟨by decide, rfl, _, rfl⟩

theorem witness_CrcByteUpdatesCrc :
    (start fresh [0x20FF]).port = .command (0x2000 + (0xFF : Byte).setWidth 16) :: [] := by decide

theorem witness_CrcReadRespondsCrc :
    (0x3080#16).extractLsb' 12 4 = (0x3000#16).extractLsb' 12 4 ∧
    (start fresh [0x3000]).port = .command 0x3000 :: [] ∧ ∃ t, exec .crcRead (start fresh []) = .next t :=
  ⟨by decide, rfl, _, rfl⟩

/-- n = 0, n = MAX_WORDS and n = MAX_WORDS + 1, where the clauses meet. -/
theorem witness_FrameStartOpensFrame :
    (0 : Byte).toNat ≤ (start fresh []).params.maxWords ∧ (16 : Byte).toNat ≤ (start fresh []).params.maxWords ∧
    (start fresh []).params.maxWords < (17 : Byte).toNat ∧
    (start fresh [0x4010]).port = .command (0x4000 + (16 : Byte).setWidth 16) :: [] ∧
    (start fresh [0x4011]).port = .command (0x4000 + (17 : Byte).setWidth 16) :: [] ∧
    Params.reference.wf = true := by decide

theorem witness_FrameByteFollowsPseudocode :
    (start fresh [0x50FF]).port = .command (0x5000 + (0xFF : Byte).setWidth 16) :: [] ∧
    fresh.phase = .idle ∧ doneBeef.phase = .done ∧
    ((errAt 3 .high).phase = .err ∧ (errAt 3 .high).widx = (errAt 3 .high).n) ∧
    ((errAt 1 .high).phase = .err ∧ (errAt 1 .high).widx ≠ (errAt 1 .high).n ∧ (errAt 1 .high).pos = .high) ∧
    ((errAt 1 .low).phase = .err ∧ (errAt 1 .low).widx ≠ (errAt 1 .low).n ∧ (errAt 1 .low).pos = .low) ∧
    ((errAt 2 .check).phase = .err ∧ (errAt 2 .check).widx ≠ (errAt 2 .check).n ∧ (errAt 2 .check).pos = .check) ∧
    (({ atCheck 1 with pos := .high } : Block).phase = .run ∧ ({ atCheck 1 with pos := .high } : Block).pos = .high) ∧
    (({ atCheck 1 with pos := .low } : Block).phase = .run ∧ ({ atCheck 1 with pos := .low } : Block).pos = .low) ∧
    ((atCheck 1).phase = .run ∧ (atCheck 1).pos = .check ∧ 0x92 = (atCheck 1).fcrc ∧ 0x93 ≠ (atCheck 1).fcrc) := by
  decide

theorem witness_FrameByteFollowsPseudocode_invariant :
    FcrcTracks (atCheck 1) ∧ Invariant (start (atCheck 1) [0x5092]) ∧
    (∃ t, exec (.frameByte 0x92) (start (atCheck 1) [0x5092]) = .next t) ∧
    Memory.wf (start fresh []).params (start fresh []).block.wbuf = true ∧ 1 ≤ (start fresh []).params.maxWords ∧
    (start fresh [0x4001, 0x50BE, 0x50EF, 0x5092]).port =
      commandInputs [.frameStart 1, .frameByte 0xBE, .frameByte 0xEF, .frameByte 0x92] ++ [] :=
  ⟨fcrcTracks_atCheck, invariant_atCheck, ⟨_, rfl⟩, by decide, by decide, by decide⟩

theorem witness_FrameAbortClosesFrame :
    (0x6080#16).extractLsb' 12 4 = (0x6000#16).extractLsb' 12 4 ∧
    (start fresh [0x6000]).port = .command 0x6000 :: [] ∧ ∃ t, exec .frameAbort (start doneBeef []) = .next t :=
  ⟨by decide, rfl, _, rfl⟩

theorem witness_StatusReadRespondsStatus :
    (0x7001#16).extractLsb' 12 4 = (0x7000#16).extractLsb' 12 4 ∧
    (start fresh [0x7000]).port = .command 0x7000 :: [] ∧
    (Invariant (start { errAt 3 .high with eidx := 2, ovr := true } [0x7000]) ∧
      (start { errAt 3 .high with eidx := 2, ovr := true } [0x7000]).block.phase = .err) ∧
    (Invariant (start doneBeef []) ∧ (start doneBeef []).block.phase ≠ .err) ∧
    (∃ s : State, s.block.phase = .err ∧ s.block.eidx = 5 ∧ s.block.ovr = true ∧ s.block.cmderr = false) ∧
    ∃ t, exec .statusRead (start doneBeef []) = .next t :=
  ⟨by decide, rfl, ⟨invariant_errAt, rfl⟩, ⟨invariant_doneBeef [], by decide⟩,
    ⟨start { errAt 3 .high with eidx := 5, ovr := true } [], rfl, rfl, rfl, rfl⟩, _, rfl⟩

/-- Index 0 is read and index 1 = N is gated in DONE; every index is gated in RUN. -/
theorem witness_WordReadIsGated :
    (doneBeef.phase = .done ∧ (0 : Byte) < doneBeef.n ∧ doneBeef.wbuf[(0 : Byte).toNat]? = some 0xBEEF) ∧
    (doneBeef.phase = .done ∧ doneBeef.n ≤ (1 : Byte)) ∧ (atCheck 1).phase ≠ .done ∧
    (start fresh [0x80FF]).port = .command (0x8000 + (0xFF : Byte).setWidth 16) :: [] := by decide

theorem witness_WordReadIsGated_invariant : Invariant (start doneBeef []) ∧ (0 : Byte) < (start doneBeef []).block.n :=
  ⟨invariant_doneBeef [], by decide⟩

theorem witness_OnlyValidTriplesAreStored :
    (∃ t, exec (.frameByte 0x92) (start (atCheck 1) []) = .next t) ∧
    (storesWord 0x92 (atCheck 1) = true ∧ storeIndex (atCheck 1) = 0 ∧ 1 ≠ 0 ∧
      storeIndex (atCheck 1) < (atCheck 1).wbuf.length) ∧
    storesWord 0x93 (atCheck 1) = false ∧
    (∀ b, Instr.frameAbort ≠ .frameByte b) ∧ ∃ t, exec .frameAbort (start doneBeef []) = .next t :=
  ⟨⟨_, rfl⟩, by decide, by decide, by simp, _, rfl⟩

theorem witness_EachRegisterHasItsOwnWriters :
    (start (atCheck 1) [0x5092]).port = .command 0x5092 :: [] ∧ ∃ t, step (start (atCheck 1) [0x5092]) = .next t :=
  ⟨rfl, witness_step _ ⟨_, rfl⟩⟩

theorem witness_OnlyNamedInputsClearErrors :
    (nextInputIs clearsFrameErrors (start { errAt 3 .high with ovr := true, cmderr := true } [0x7000]) = false ∧
      (errAt 3 .high).phase = .err ∧ ∃ t, step (start { errAt 3 .high with ovr := true } [0x7000]) = .next t) ∧
    nextInputIs clearsFrameErrors (start (errAt 3 .high) [0x4001]) = true ∧
    nextInputIs clearsCommandError (start { fresh with cmderr := true } [0x4001]) = false ∧
    nextInputIs clearsCommandError (start { fresh with cmderr := true } [0x6000]) = true ∧
    nextInputIs isIllegalWord (start { fresh with cmderr := true } [0x6001]) = true :=
  ⟨⟨by decide, by decide, witness_step _ ⟨_, rfl⟩⟩, by decide, by decide, by decide, by decide⟩

/-- An illegal word, an over-run and a mismatch, each raising its error, and a drain that raises none. -/
theorem witness_OneCommandRaisesOneError :
    (fresh.cmderr = false ∧ (stepped (start fresh [0x9000])).map (·.block.cmderr) = some true) ∧
    (fresh.ovr = false ∧ (stepped (start fresh [0x5000])).map (·.block.ovr) = some true) ∧
    ((atCheck 1).phase ≠ .err ∧ (stepped (start (atCheck 1) [0x5093])).map (·.block.phase) = some .err) ∧
    ((errAt 1 .high).phase = .err ∧ nextInputIs clearsFrameErrors (start (errAt 1 .high) [0x5000]) = false) := by decide

theorem witness_IdempotentCommands :
    isReadCommand .statusRead = true ∧ (∃ t, exec .statusRead (start doneBeef []) = .next t) ∧
    ∃ t, exec (.frameStart 17) (start doneBeef []) = .next t := ⟨rfl, ⟨_, rfl⟩, _, rfl⟩

theorem witness_OnlyReadsDriveAResponse :
    ((start fresh [0x7000]).port = .command 0x7000 :: [] ∧ ∃ t, step (start fresh [0x7000]) = .next t) ∧
    (inputInstr Params.reference (.command 0x7000) = some .statusRead ∧ isReadCommand .statusRead = true) ∧
    (inputInstr Params.reference (.command 0x6000) = some .frameAbort ∧ isReadCommand .frameAbort = false) ∧
    isIllegalWord Params.reference (.command 0x6001) = true :=
  ⟨⟨rfl, witness_step _ ⟨_, rfl⟩⟩, by decide, by decide, by decide⟩

theorem witness_RunIsLeftFoldOfSteps :
    (start fresh [0x20BE, 0x3000]).port = [.command 0x20BE] ++ [.command 0x3000] := rfl

theorem witness_CmdAcceptChangesNoState : ∃ t, step (start fresh [0x20BE]) = .next t := witness_step _ ⟨_, rfl⟩

/-- A valid frame of one word, with NOP, CRC_BYTE and an illegal word interleaved; a failing one; an empty one. -/
theorem witness_FrameStreamComputesDecodeWords :
    Memory.wf (start fresh []).params (start fresh []).block.wbuf = true ∧ (1 : Byte).toNat ≤ Params.reference.maxWords ∧
    ([0xBE, 0xEF, 0x92] : List Byte).length = 3 * (1 : Byte).toNat ∧
    noReset [.command 0x4001, .command 0x50BE, .command 0x0000, .command 0x50EF, .command 0x9000, .command 0x5092] = true ∧
    streamOf Params.reference isFrameCommand
      [.command 0x4001, .command 0x50BE, .command 0x0000, .command 0x50EF, .command 0x9000, .command 0x5092] =
      .frameStart 1 :: ([0xBE, 0xEF, 0x92] : List Byte).map .frameByte ∧
    decodeWords [0xBE, 0xEF, 0x92] 1 = .ok [0xBEEF] ∧ decodeWords [0xBE, 0xEF, 0x93] 1 = .err 0 ∧
    streamOf Params.reference isFrameCommand [.command 0x4000] = .frameStart 0 :: ([] : List Byte).map .frameByte := by
  decide +kernel

/-- In RUN with a triple latched, and a step that completes the frame. -/
theorem witness_StepKeepsAgreementWithDecodeWords :
    Invariant (start (atCheck 1) [0x5092]) ∧ FcrcTracks (atCheck 1) ∧ FrameMatches (atCheck 1) [0xBE, 0xEF] ∧
    ∃ t, step (start (atCheck 1) [0x5092]) = .next t :=
  ⟨invariant_atCheck, fcrcTracks_atCheck,
    ⟨by decide, by decide, by decide, by decide, by decide⟩, witness_step _ ⟨_, rfl⟩⟩

/-- In ERR with a drain that is not complete. -/
theorem witness_FrameMatches_err : FrameMatches (errAt 1 .high) [0xBE, 0xEF, 0x93] :=
  ⟨by decide, by decide, by decide +kernel, by decide, by decide⟩

/-- A whole frame and a frame cut after two bytes. -/
theorem witness_PositionCountsBytes :
    (1 : Byte).toNat ≤ Params.reference.maxWords ∧ ([0x00, 0x01, 0xB0] : List Byte).length ≤ 3 * (1 : Byte).toNat ∧
    (start fresh [0x4001, 0x5000, 0x5001, 0x50B0]).port =
      [.command 0x4001, .command 0x5000, .command 0x5001, .command 0x50B0] ++ [] ∧
    noReset [.command 0x4001, .command 0x5000, .command 0x5001, .command 0x50B0] = true ∧
    streamOf Params.reference isFrameCommand [.command 0x4001, .command 0x5000, .command 0x5001, .command 0x50B0] =
      .frameStart 1 :: ([0x00, 0x01, 0xB0] : List Byte).map .frameByte := by decide

theorem witness_TruncatedFrameStaysOpen :
    (1 : Byte).toNat ≤ Params.reference.maxWords ∧ ([0x00, 0x01] : List Byte).length < 3 * (1 : Byte).toNat ∧
    (start fresh [0x4001, 0x5000, 0x5001]).port = [.command 0x4001, .command 0x5000, .command 0x5001] ∧
    noReset [.command 0x4001, .command 0x5000, .command 0x5001] = true ∧
    streamOf Params.reference isFrameCommand [.command 0x4001, .command 0x5000, .command 0x5001] =
      .frameStart 1 :: ([0x00, 0x01] : List Byte).map .frameByte := by decide

/-- In DONE with an extra byte, and in ERR with a drain. -/
theorem witness_CompleteFrameResultIsFixed :
    (FrameComplete doneBeef ∧ (start doneBeef [0x50AA]).port = [.command 0x50AA] ++ [] ∧
      ∀ x ∈ [Input.command 0x50AA], clearsFrameErrors Params.reference x = false) ∧
    FrameComplete (errAt 1 .high) ∧ ∃ t, exec (.wordRead 0) (start doneBeef []) = .next t ∧ t.resp = some 0xBEEF :=
  ⟨by decide, by decide, _, rfl, by decide⟩

/-- From a failed frame and from reset. -/
theorem witness_RestartLeavesNoTrace :
    (1 : Byte).toNat ≤ (start (errAt 1 .low) []).params.maxWords ∧
    (start (errAt 1 .low) []).params = (start fresh []).params ∧
    (start (errAt 1 .low) []).port = (start fresh []).port ∧ (start (errAt 1 .low) []).resp = (start fresh []).resp ∧
    (errAt 1 .low).crc = fresh.crc ∧ (errAt 1 .low).cmderr = fresh.cmderr ∧ (errAt 1 .low).rdata = fresh.rdata ∧
    (errAt 1 .low).wbuf.length = fresh.wbuf.length := by decide

theorem witness_FeedWordDeliversValidTriple :
    Invariant (start { fresh with phase := .run, n := 1 } [0x5002, 0x5000, 0x5058]) ∧
    (start { fresh with phase := .run, n := 1 } [0x5002, 0x5000, 0x5058]).block.phase = .run ∧
    (start { fresh with phase := .run, n := 1 } [0x5002, 0x5000, 0x5058]).block.pos = .high ∧
    (start { fresh with phase := .run, n := 1 } [0x5002, 0x5000, 0x5058]).port =
      commandInputs (expand (.feedWord 0x02 0x00)) ++ [] :=
  ⟨⟨by decide, by decide, by decide, by decide, by decide, by decide, by decide, by decide, by decide, by decide⟩,
    rfl, rfl, by decide +kernel⟩

theorem witness_ReadWordsRespondsEachWord :
    Invariant (start doneBeef [0x8000]) ∧ (start doneBeef [0x8000]).block.phase = .done ∧
    (1 : Byte) ≤ (start doneBeef [0x8000]).block.n ∧
    (start doneBeef [0x8000]).port = commandInputs (expand (.readWords 1)) ++ [] ∧ 0 < (1 : Byte).toNat :=
  ⟨invariant_doneBeef _, rfl, by decide, by decide, by decide⟩

end Sys2Proof.Tests
end

namespace Sys2Proof.Machine

/-! ## The step, one equation per kind of input (00_scope.md R7)

`step_cases` reads a step backwards, from its answer to the case it came from; these equations read it forwards. -/

section StepEquations

variable {s : State} {w : Word} {rest : List Input} {i : Instr}

theorem step_idle (hp : s.port = []) : step s = .next (idleStep s) := by
  rw [step, takeInput_idle hp]

theorem step_reset (hp : s.port = .reset :: rest) :
    step s = .next (resetBlock { s with port := rest, resp := none }) := by
  rw [step, takeInput_next hp]

theorem step_legal (hp : s.port = .command w :: rest) (hd : decode s.params w = some i) :
    step s = exec i { s with port := rest, resp := none } := by
  simp only [step, takeInput_next hp, hd]

theorem step_illegal (hp : s.port = .command w :: rest) (hd : decode s.params w = none) :
    step s = .next (illegalWord { s with port := rest, resp := none }) := by
  simp only [step, takeInput_next hp, hd]

end StepEquations

/-! ## What the decoder accepts is well formed (30_encoding.md R73, R79) -/

theorem zeroOperand_eq_legal_iff {i j : Instr} {arg : Byte} :
    zeroOperand i arg = .legal j ↔ arg = 0 ∧ i = j := by
  unfold zeroOperand
  split
  case isTrue h => simp [h]
  case isFalse h => exact ⟨nofun, fun ⟨harg, _⟩ => absurd harg h⟩

theorem decode_eq_some_iff {P : Params} {w : Word} {i : Instr} :
    decode P w = some i ↔ decodeNamed P w = .legal i := by
  unfold decode
  cases decodeNamed P w <;> simp

/-- Only FRAME_START has an operand constraint, and its arm of the decoder tests exactly that one. -/
theorem decodeNamed_legal_wellFormed {P : Params} {w : Word} {i : Instr} (h : decodeNamed P w = .legal i) :
    wellFormed P i = true := by
  simp only [decodeNamed] at h
  split at h
  case isTrue => cases h
  case isFalse =>
    split at h
    -- the commands without an operand
    case h_1 | h_2 | h_4 | h_7 | h_8 => obtain ⟨-, rfl⟩ := zeroOperand_eq_legal_iff.mp h; rfl
    -- CRC_BYTE, FRAME_BYTE and WORD_READ, whose operand is any byte
    case h_3 | h_6 | h_9 => cases h; rfl
    -- FRAME_START
    case h_5 =>
      split at h
      case isTrue hn => cases h; exact decide_eq_true hn
      case isFalse => cases h
    -- a reserved OP
    case h_10 => cases h

theorem decode_wellFormed {P : Params} {w : Word} {i : Instr} (h : decode P w = some i) :
    wellFormed P i = true :=
  decodeNamed_legal_wellFormed (decode_eq_some_iff.mp h)

/-- Settles O4: the equation of the step on a legal word, and the decoder's check of the operand. -/
theorem stepRunsDecodedCommand : Obligations.StepRunsDecodedCommand :=
  fun _ _ _ _ hp hd => ⟨decode_wellFormed hd, step_legal hp hd⟩

/-! ## No step faults or refuses (00_scope.md R7, 92_eei_decisions.md D25) -/

theorem exec_answers_next (i : Instr) (s : State) : ∃ t, exec i s = .next t := by
  cases i <;> exact ⟨_, rfl⟩

/-- Settles O6, by the kind of the next input; a legal command answers because every arm of `exec` does. -/
theorem everyStepAnswersNext : Obligations.EveryStepAnswersNext := by
  intro s
  rcases hp : s.port with _ | ⟨_ | _, rest⟩
  case nil => exact ⟨_, step_idle hp⟩
  case cons.command w =>
    cases hd : decode s.params w with
    | none => exact ⟨_, step_illegal hp hd⟩
    | some i => simpa only [step_legal hp hd] using exec_answers_next i _
  case cons.reset => exact ⟨_, step_reset hp⟩

/-! ## CMD_ACCEPT is held and ignored (00_scope.md R11) -/

/-- The state under another value of CMD_ACCEPT. -/
def withCmdAccept (a : CmdAccept) (s : State) : State := { s with params := { s.params with cmdAccept := a } }

/-- The decoder reads MAX_WORDS alone of the parameters. -/
theorem decode_withCmdAccept (a : CmdAccept) (s : State) (w : Word) :
    decode (withCmdAccept a s).params w = decode s.params w := rfl

theorem exec_withCmdAccept {i : Instr} {s t : State} (a : CmdAccept) (h : exec i s = .next t) :
    exec i (withCmdAccept a s) = .next (withCmdAccept a t) := by
  cases i <;> (cases h; rfl)

theorem step_withCmdAccept {s t : State} (a : CmdAccept) (h : step s = .next t) :
    step (withCmdAccept a s) = .next (withCmdAccept a t) := by
  obtain ⟨hp, rfl⟩ | ⟨rest, hp, rfl⟩ | ⟨w, rest, i, hp, hd, hx⟩ | ⟨w, rest, hp, hd, rfl⟩ := step_cases h
  · exact step_idle (s := withCmdAccept a s) hp
  · exact step_reset (s := withCmdAccept a s) hp
  · exact (step_legal (s := withCmdAccept a s) hp ((decode_withCmdAccept a s w).trans hd)).trans
      (exec_withCmdAccept a hx)
  · exact step_illegal (s := withCmdAccept a s) hp ((decode_withCmdAccept a s w).trans hd)

/-- Settles O42: changing CMD_ACCEPT commutes with every kind of step. -/
theorem cmdAcceptChangesNoState : Obligations.CmdAcceptChangesNoState :=
  fun _ _ a h => step_withCmdAccept a h

end Sys2Proof.Machine

namespace Sys2Proof.Machine

/-! ## What a step does to the frame engine (40_crc.md R108, 41_frame.md R122 to R124)

The invariants of 10_state.md R34 and R27 speak of the frame engine's fields only. `FrameStep` says once what a step can do
to them; each invariant is then five cases. -/

/-- The inputs that reach the frame engine: Reset and the frame engine's own commands. -/
def reachesFrame (P : Params) (x : Input) : Bool :=
  match x with
  | .reset => true
  | .command w => (decode P w).any isFrameCommand

/-- The blocks a step from s can leave, by what its input is to the frame engine. -/
inductive FrameStep (s : State) : Block → Prop
  | reset {rest : List Input} (hp : s.port = .reset :: rest) : FrameStep s (Block.reset s.params)
  | start {w : Word} {rest : List Input} {n : Byte} (hp : s.port = .command w :: rest)
      (hd : decode s.params w = some (.frameStart n)) (hn : n.toNat ≤ s.params.maxWords) :
      FrameStep s (openFrame n s.block)
  | byte {w : Word} {rest : List Input} {b : Byte} (hp : s.port = .command w :: rest)
      (hd : decode s.params w = some (.frameByte b)) : FrameStep s (frameByte b s.block)
  | abort {w : Word} {rest : List Input} (hp : s.port = .command w :: rest)
      (hd : decode s.params w = some .frameAbort) : FrameStep s (closeFrame s.block)
  | other (k : Block) (hq : nextInputIs reachesFrame s = false) : FrameStep s (withFrameOf k s.block)

/-- A command that is none of the frame engine's leaves the frame engine's fields as they were. -/
theorem exec_block_of_not_frameCommand {i : Instr} {s t : State} (hi : isFrameCommand i = false)
    (h : exec i s = .next t) : t.block = withFrameOf t.block s.block := by
  cases i with
  | frameStart | frameByte | frameAbort => cases hi
  | nop | crcInit | crcByte | crcRead | statusRead | wordRead => cases h; rfl

theorem execFrameStart_of_le {n : Byte} {s : State} (hn : n.toNat ≤ s.params.maxWords) :
    execFrameStart n s = .next { s with block := openFrame n s.block } := by
  rw [execFrameStart, wordCount, if_pos hn]

theorem execFrameStart_of_not_le {n : Byte} {s : State} (hn : ¬ n.toNat ≤ s.params.maxWords) :
    execFrameStart n s = .next { s with block := raise .illegalCommand s.block } := by
  rw [execFrameStart, wordCount, if_neg hn]

/-- The count of a FRAME_START that decodes is legal (30_encoding.md R73). -/
theorem count_le_of_decode {P : Params} {w : Word} {n : Byte} (hd : decode P w = some (.frameStart n)) :
    n.toNat ≤ P.maxWords := of_decide_eq_true (decode_wellFormed hd)

theorem step_frameStep {s t : State} (h : step s = .next t) : FrameStep s t.block := by
  obtain ⟨hp, rfl⟩ | ⟨rest, hp, rfl⟩ | ⟨w, rest, i, hp, hd, hx⟩ | ⟨w, rest, hp, hd, rfl⟩ := step_cases h
  · exact .other s.block (by simp [nextInputIs, hp])
  · exact .reset hp
  · cases hi : isFrameCommand i with
    | false =>
      rw [exec_block_of_not_frameCommand hi hx]
      exact .other t.block (by simp [nextInputIs, hp, reachesFrame, hd, hi])
    | true =>
      cases i with
      | frameStart n =>
        have hn := count_le_of_decode hd
        cases (execFrameStart_of_le (s := { s with port := rest, resp := none }) hn).symm.trans hx
        exact .start hp hd hn
      | frameByte b => cases hx; exact .byte hp hd
      | frameAbort => cases hx; exact .abort hp hd
      | nop | crcInit | crcByte | crcRead | statusRead | wordRead => cases hi
  · exact .other (raise .illegalCommand s.block) (by simp [nextInputIs, hp, reachesFrame, hd])

/-! ## The invariants I1 to I8 (10_state.md R34) -/

/-- The invariants read the parameters and the block only. -/
theorem Invariant.of_params_eq {s t : State} (h : Invariant { s with block := t.block }) (hp : t.params = s.params) :
    Invariant t := by
  cases t
  cases hp
  exact { h with }

/-- POS has no fourth value (log entry 5). -/
theorem posCode_cases (p : Pos) : posCode p = 0 ∨ posCode p = 1 ∨ posCode p = 2 := by
  cases p <;> decide

section InvariantOfPhase

/-! What R34 asks of a state in each phase: of I4 to I8 only the clauses that speak of it. -/

variable {s : State} (hP : s.params.wf = true) (hb : Memory.wf s.params s.block.wbuf = true)
  (h1 : s.block.n.toNat ≤ s.params.maxWords)
include hP hb h1

theorem Invariant.of_idle (hp : s.block.phase = .idle) (hn : s.block.n = 0) (hw : s.block.widx = 0)
    (hq : s.block.pos = .high) (he : s.block.eidx = 0) : Invariant s where
  params := hP
  buffer := hb
  i1 := h1
  i2 := by rw [hn, hw]; exact BitVec.le_refl _
  i3 := posCode_cases _
  i4 _ := ⟨hn, hw, hq, he⟩
  i5 hp' := nomatch hp.symm.trans hp'
  i6 hp' := nomatch hp.symm.trans hp'
  i7 hp' := nomatch hp.symm.trans hp'
  i8 _ := he

theorem Invariant.of_run (hp : s.block.phase = .run) (hw : s.block.widx < s.block.n) (he : s.block.eidx = 0) :
    Invariant s where
  params := hP
  buffer := hb
  i1 := h1
  i2 := BitVec.le_of_lt hw
  i3 := posCode_cases _
  i4 hp' := nomatch hp.symm.trans hp'
  i5 _ := hw
  i6 hp' := nomatch hp.symm.trans hp'
  i7 hp' := nomatch hp.symm.trans hp'
  i8 _ := he

theorem Invariant.of_done (hp : s.block.phase = .done) (hw : s.block.widx = s.block.n) (hq : s.block.pos = .high)
    (he : s.block.eidx = 0) : Invariant s where
  params := hP
  buffer := hb
  i1 := h1
  i2 := by rw [hw]; exact BitVec.le_refl _
  i3 := posCode_cases _
  i4 hp' := nomatch hp.symm.trans hp'
  i5 hp' := nomatch hp.symm.trans hp'
  i6 _ := ⟨hw, hq⟩
  i7 hp' := nomatch hp.symm.trans hp'
  i8 _ := he

theorem Invariant.of_err (hp : s.block.phase = .err) (he : s.block.eidx < s.block.widx)
    (hw : s.block.widx ≤ s.block.n) (hq : s.block.widx = s.block.n → s.block.pos = .high) : Invariant s where
  params := hP
  buffer := hb
  i1 := h1
  i2 := hw
  i3 := posCode_cases _
  i4 hp' := nomatch hp.symm.trans hp'
  i5 hp' := nomatch hp.symm.trans hp'
  i6 hp' := nomatch hp.symm.trans hp'
  i7 _ := ⟨by bv_omega, he, hw, hq⟩
  i8 hne := absurd hp hne

end InvariantOfPhase

theorem invariant_resetBlock {s : State} (hP : s.params.wf = true) :
    Invariant { s with block := Block.reset s.params } :=
  .of_idle hP (reset_memory s.params) (Nat.zero_le _) rfl rfl rfl rfl rfl

/-- FRAME_START 0 completes the frame at once (41_frame.md R122). -/
theorem openFrame_phase_cases (n : Byte) (k : Block) :
    (n = 0 ∧ (openFrame n k).phase = .done) ∨ (n ≠ 0 ∧ (openFrame n k).phase = .run) := by
  by_cases hn : n = 0
  · exact .inl ⟨hn, if_pos hn⟩
  · exact .inr ⟨hn, if_neg hn⟩

/-- The last triple of a frame completes it (41_frame.md R123). -/
theorem acceptTriple_phase_cases {k : Block} (hp : k.phase = .run) :
    (k.widx + 1 = k.n ∧ (acceptTriple k).phase = .done) ∨ (k.widx + 1 ≠ k.n ∧ (acceptTriple k).phase = .run) := by
  by_cases hw : k.widx + 1 = k.n
  · exact .inl ⟨hw, if_pos hw⟩
  · exact .inr ⟨hw, (if_neg hw).trans hp⟩

/-- Draining does not leave ERR. -/
theorem drainByte_phase (k : Block) : (drainByte k).phase = k.phase := by
  obtain ⟨-, h⟩ | ⟨-, h⟩ := drainByte_cases k <;> simp [h]

section InvariantOps

variable {s : State} (h : Invariant s)
include h

theorem Invariant.withFrameOf (k : Block) : Invariant { s with block := withFrameOf k s.block } := { h with }

theorem Invariant.openFrame {n : Byte} (hn : n.toNat ≤ s.params.maxWords) :
    Invariant { s with block := openFrame n s.block } := by
  obtain ⟨hn0, hp⟩ | ⟨hn0, hp⟩ := openFrame_phase_cases n s.block
  · exact .of_done h.params h.buffer hn hp hn0.symm rfl rfl
  · have hpos : 0 < n := by bv_omega
    exact .of_run h.params h.buffer hn hp hpos rfl

theorem Invariant.closeFrame : Invariant { s with block := closeFrame s.block } :=
  .of_idle h.params h.buffer (Nat.zero_le _) rfl rfl rfl rfl rfl

theorem Invariant.raise_overRun : Invariant { s with block := raise .overRun s.block } := { h with }

/-- Latching a byte in RUN: no invariant speaks of the latches or FCRC, and RUN leaves POS free. -/
theorem Invariant.latch (hp : s.block.phase = .run) (hi lo fcrc : Byte) (p : Pos) :
    Invariant { s with block := { s.block with hi := hi, lo := lo, fcrc := fcrc, pos := p } } :=
  .of_run h.params h.buffer h.i1 hp (h.i5 hp) (h.i8 (by simp [hp]))

/-- A byte of a drain: within a triple that is still due I7 leaves POS free, and completing it moves WIDX away from EIDX. -/
theorem Invariant.drainByte (hp : s.block.phase = .err) (hw : s.block.widx ≠ s.block.n) :
    Invariant { s with block := drainByte s.block } := by
  obtain ⟨-, he, hle, -⟩ := h.i7 hp
  obtain ⟨-, hk⟩ | ⟨-, hk⟩ := drainByte_cases s.block <;> rw [hk]
  · have he' : s.block.eidx < s.block.widx + 1 := by bv_omega
    have hle' : s.block.widx + 1 ≤ s.block.n := by bv_omega
    exact .of_err h.params h.buffer h.i1 hp he' hle' fun _ => rfl
  · exact .of_err h.params h.buffer h.i1 hp he hle fun heq => absurd heq hw

/-- Storing a word: the frame ends when WIDX reaches N, and WIDX stays below N otherwise. -/
theorem Invariant.acceptTriple (hp : s.block.phase = .run) :
    Invariant { s with block := acceptTriple s.block } := by
  have hlt := h.i5 hp
  have he : s.block.eidx = 0 := h.i8 (by simp [hp])
  have hb := writeWord_keeps_memory h.buffer (storeIndex s.block) (joinBytes s.block.hi s.block.lo)
  obtain ⟨heq, hp'⟩ | ⟨hne, hp'⟩ := acceptTriple_phase_cases hp
  · exact .of_done h.params hb h.i1 hp' heq rfl he
  · have hlt' : s.block.widx + 1 < s.block.n := by bv_omega
    exact .of_run h.params hb h.i1 hp' hlt' he

/-- The first mismatch: EIDX is the triple just completed, hence below the new WIDX. -/
theorem Invariant.rejectTriple (hp : s.block.phase = .run) :
    Invariant { s with block := rejectTriple s.block } := by
  have hlt := h.i5 hp
  have he' : s.block.widx < s.block.widx + 1 := by bv_omega
  have hle' : s.block.widx + 1 ≤ s.block.n := by bv_omega
  exact .of_err h.params h.buffer h.i1 rfl he' hle' fun _ => rfl

theorem Invariant.frameByte (b : Byte) : Invariant { s with block := frameByte b s.block } := by
  obtain ⟨-, hk⟩ | ⟨hp, hw, hk⟩ | ⟨hp, -, hk⟩ | ⟨hp, -, hk⟩ | ⟨hp, -, -, hk⟩ | ⟨hp, -, -, hk⟩ :=
    frameByte_cases b s.block <;> rw [hk]
  · exact h.raise_overRun
  · exact h.drainByte hp hw
  · exact h.latch hp _ _ _ _
  · exact h.latch hp _ _ _ _
  · exact h.acceptTriple hp
  · exact h.rejectTriple hp

theorem FrameStep.keeps_invariant {k : Block} (hk : FrameStep s k) : Invariant { s with block := k } := by
  cases hk with
  | reset => exact invariant_resetBlock h.params
  | start _ _ hn => exact h.openFrame hn
  | byte => exact h.frameByte _
  | abort => exact h.closeFrame
  | other k => exact h.withFrameOf k

end InvariantOps

/-- Settles O13: every effect of a step on the frame engine keeps the invariants, and they read nothing else. -/
theorem stepKeepsInvariant : Obligations.StepKeepsInvariant :=
  fun _ _ h hs => ((step_frameStep hs).keeps_invariant h).of_params_eq (step_keeps_params hs)

/-- In IDLE and ERR no word is readable and none can become so in this frame: I9 holds of any record. -/
theorem writtenInFrame_of_closed {k : Block} (hp : k.phase = .idle ∨ k.phase = .err) (written : List Nat) :
    WrittenInFrame k written := by
  constructor <;> intro hp' <;> simp [hp'] at hp

/-- Settles O11: the reset block meets I1 to I8 at legal parameters, and it is in IDLE. -/
theorem resetMeetsInvariant : Obligations.ResetMeetsInvariant :=
  fun P hP => ⟨invariant_resetBlock (s := State.resetWith P) hP, writtenInFrame_of_closed (.inl rfl) []⟩

/-! ## I9: readable words were written in this frame (10_state.md R34) -/

theorem storesWord_iff {b : Byte} {k : Block} :
    storesWord b k = true ↔ k.phase = .run ∧ k.pos = .check ∧ b = k.fcrc := by
  simp [storesWord, and_assoc]

section WrittenAfter

variable {s : State} {w : Word} {rest : List Input} {written : List Nat}

theorem writtenAfter_reset (hp : s.port = .reset :: rest) : writtenAfter s written = [] := by
  simp only [writtenAfter, hp]

theorem writtenAfter_start {n : Byte} (hp : s.port = .command w :: rest)
    (hd : decode s.params w = some (.frameStart n)) : writtenAfter s written = [] := by
  simp only [writtenAfter, hp, hd]

theorem writtenAfter_byte {b : Byte} (hp : s.port = .command w :: rest)
    (hd : decode s.params w = some (.frameByte b)) :
    writtenAfter s written = if storesWord b s.block then storeIndex s.block :: written else written := by
  simp only [writtenAfter, hp, hd]

/-- An input that does not reach the frame engine leaves the record alone. -/
theorem writtenAfter_other (hq : nextInputIs reachesFrame s = false) : writtenAfter s written = written := by
  unfold writtenAfter
  split
  · rfl
  case h_2 hp => simp [nextInputIs, hp, reachesFrame] at hq
  case h_3 hp =>
    split
    case h_1 hd | h_2 hd => simp [nextInputIs, hp, reachesFrame, hd, isFrameCommand] at hq
    · rfl

end WrittenAfter

section WrittenInFrameOps

variable {k : Block} {written : List Nat} (h : WrittenInFrame k written)
include h

/-- What an accepted triple adds is the one index that WIDX then passes. -/
theorem WrittenInFrame.acceptTriple (hp : k.phase = .run) :
    WrittenInFrame (acceptTriple k) (storeIndex k :: written) := by
  have hpassed : ∀ i, i < (k.widx + 1).toNat → i ∈ storeIndex k :: written := by
    intro i hi
    have hle : i = k.widx.toNat ∨ i < k.widx.toNat := by bv_omega
    obtain rfl | hlt := hle
    · exact List.mem_cons_self
    · exact List.mem_cons_of_mem _ (h.whileRun hp i hlt)
  refine ⟨fun _ => hpassed, fun hp' => ?_⟩
  obtain ⟨heq, -⟩ | ⟨-, hrun⟩ := acceptTriple_phase_cases hp
  · rw [acceptTriple_n, ← heq]
    exact hpassed
  · exact nomatch hrun.symm.trans hp'

theorem WrittenInFrame.frameByte (b : Byte) :
    WrittenInFrame (frameByte b k) (if storesWord b k then storeIndex k :: written else written) := by
  obtain ⟨hne, hk⟩ | ⟨hp, -, hk⟩ | ⟨hp, hq, hk⟩ | ⟨hp, hq, hk⟩ | ⟨hp, hq, hb, hk⟩ | ⟨hp, -, hb, hk⟩ :=
    frameByte_cases b k <;> rw [hk]
  · have hs : ¬ storesWord b k = true := fun hs => hne (.inl (storesWord_iff.mp hs).1)
    rw [if_neg hs]
    exact { h with }
  · exact writtenInFrame_of_closed (.inr ((drainByte_phase k).trans hp)) _
  · rw [if_neg (by simp [storesWord_iff, hq])]
    exact { h with }
  · rw [if_neg (by simp [storesWord_iff, hq])]
    exact { h with }
  · rw [if_pos (storesWord_iff.mpr ⟨hp, hq, hb⟩)]
    exact h.acceptTriple hp
  · exact writtenInFrame_of_closed (.inr rfl) _

end WrittenInFrameOps

/-- A frame that is complete when it opens has no word. -/
theorem not_lt_count_of_openFrame_done {n : Byte} {k : Block} (hp : (openFrame n k).phase = .done) (i : Nat) :
    ¬ i < n.toNat := by
  obtain ⟨rfl, -⟩ | ⟨-, hrun⟩ := openFrame_phase_cases n k
  · exact Nat.not_lt_zero i
  · exact nomatch hrun.symm.trans hp

/-- A frame just opened has nothing to answer for: WIDX is 0, and DONE at once means N = 0 (41_frame.md R122). -/
theorem writtenInFrame_openFrame (n : Byte) (k : Block) : WrittenInFrame (openFrame n k) [] where
  whileRun _ i hi := absurd hi (Nat.not_lt_zero i)
  i9 hp i hi := absurd hi (not_lt_count_of_openFrame_done hp i)

theorem FrameStep.keeps_writtenInFrame {s : State} {k : Block} {written : List Nat} (hk : FrameStep s k)
    (h : WrittenInFrame s.block written) : WrittenInFrame k (writtenAfter s written) := by
  cases hk with
  | reset => exact writtenInFrame_of_closed (.inl rfl) _
  | start hp hd => rw [writtenAfter_start hp hd]; exact writtenInFrame_openFrame _ _
  | byte hp hd => rw [writtenAfter_byte hp hd]; exact h.frameByte _
  | abort => exact writtenInFrame_of_closed (.inl rfl) _
  | other k hq => rw [writtenAfter_other hq]; exact { h with }

/-- Settles O14: I9 with its RUN half is kept by every effect of a step on the frame engine, without I1 to I8. -/
theorem doneWordsWereWrittenInFrame : Obligations.DoneWordsWereWrittenInFrame :=
  fun _ _ _ _ h hs => (step_frameStep hs).keeps_writtenInFrame h

/-! ## FCRC is the checksum of the bytes latched (10_state.md R27) -/

theorem checksum_one (hi : Byte) : checksum [hi] = crc8Update 0xFF hi := rfl

theorem checksum_two (hi lo : Byte) : checksum [hi, lo] = crc8Update (checksum [hi]) lo := rfl

/-- Between triples no byte is latched. -/
theorem fcrcTracks_of_pos_high {k : Block} (hq : k.pos = .high) : FcrcTracks k where
  afterHigh _ hq' := nomatch hq.symm.trans hq'
  afterLow _ hq' := nomatch hq.symm.trans hq'

theorem fcrcTracks_of_not_run {k : Block} (hp : k.phase ≠ .run) : FcrcTracks k where
  afterHigh hp' := absurd hp' hp
  afterLow hp' := absurd hp' hp

theorem FcrcTracks.frameByte {k : Block} (h : FcrcTracks k) (b : Byte) : FcrcTracks (frameByte b k) := by
  obtain ⟨-, hk⟩ | ⟨hp, -, hk⟩ | ⟨-, -, hk⟩ | ⟨hp, hq, hk⟩ | ⟨-, -, -, hk⟩ | ⟨-, -, -, hk⟩ :=
    frameByte_cases b k <;> rw [hk]
  · exact { h with }
  · exact fcrcTracks_of_not_run (by simp [drainByte_phase, hp])
  · exact ⟨fun _ _ => (checksum_one b).symm, fun _ => nofun⟩
  · exact ⟨fun _ => nofun, fun _ _ => by rw [checksum_two, ← h.afterHigh hp hq]⟩
  · exact fcrcTracks_of_pos_high rfl
  · exact fcrcTracks_of_pos_high rfl

theorem FrameStep.keeps_fcrcTracks {s : State} {k : Block} (hk : FrameStep s k) (h : FcrcTracks s.block) :
    FcrcTracks k := by
  cases hk with
  | reset | start | abort => exact fcrcTracks_of_pos_high rfl
  | byte => exact h.frameByte _
  | other => exact { h with }

/-- Settles O15: at reset no byte is latched, and every effect of a step on the frame engine keeps the relation. -/
theorem stepKeepsFcrcOfTriple : Obligations.StepKeepsFcrcOfTriple :=
  ⟨fun _ => fcrcTracks_of_pos_high rfl, fun _ _ h hs => (step_frameStep hs).keeps_fcrcTracks h⟩

end Sys2Proof.Machine

namespace Sys2Proof.Machine

/-! ## A frame byte, one equation per case (41_frame.md R123)

`frameByte_cases` reads a frame byte backwards; these equations read it forwards. -/

section FrameByteEquations

variable {b : Byte} {k : Block}

theorem frameByte_unexpected (h : ¬ ByteExpected k) : frameByte b k = raise .overRun k := by
  obtain ⟨-, hk⟩ | ⟨hp, hw, -⟩ | ⟨hp, -⟩ | ⟨hp, -⟩ | ⟨hp, -⟩ | ⟨hp, -⟩ := frameByte_cases b k
  · exact hk
  · exact absurd (.inr ⟨hp, hw⟩) h
  all_goals exact absurd (.inl hp) h

theorem frameByte_drain (hp : k.phase = .err) (hw : k.widx ≠ k.n) : frameByte b k = drainByte k := by
  simp only [frameByte, hp, if_neg hw]

theorem frameByte_high (hp : k.phase = .run) (hq : k.pos = .high) :
    frameByte b k = { k with hi := b, fcrc := crc8Update 0xFF b, pos := .low } := by
  simp only [frameByte, hp, triageByte, hq]

theorem frameByte_low (hp : k.phase = .run) (hq : k.pos = .low) :
    frameByte b k = { k with lo := b, fcrc := crc8Update k.fcrc b, pos := .check } := by
  simp only [frameByte, hp, triageByte, hq]

theorem frameByte_match (hp : k.phase = .run) (hq : k.pos = .check) (hb : b = k.fcrc) :
    frameByte b k = acceptTriple k := by
  simp only [frameByte, hp, triageByte, hq, if_pos hb]

theorem frameByte_mismatch (hp : k.phase = .run) (hq : k.pos = .check) (hb : b ≠ k.fcrc) :
    frameByte b k = rejectTriple k := by
  simp only [frameByte, hp, triageByte, hq, if_neg hb]

end FrameByteEquations

/-! ## Stale words and latches are unobservable (10_state.md R37) -/

/-- Writing one word at one index of two buffers of one size keeps their agreement at any index, and makes it at that one. -/
theorem readWord_writeWord_congr {k l : Block} {i j : Nat} (v : Word) (hlen : k.wbuf.length = l.wbuf.length)
    (hj : j ≠ i → readWord k j = readWord l j) : readWord (writeWord i v k) j = readWord (writeWord i v l) j := by
  by_cases hji : j = i
  · subst hji
    by_cases hin : j < k.wbuf.length
    · rw [readWord_writeWord_same hin, readWord_writeWord_same (hlen ▸ hin)]
    · simp [readWord, hin, hlen ▸ hin]
  · rw [readWord_writeWord_other hji, readWord_writeWord_other hji, hj hji]

section ObservablyEqualOps

variable {s t : State} (h : ObservablyEqual s t)
include h

theorem ObservablyEqual.taken (rest : List Input) : ObservablyEqual (taken s rest) (taken t rest) :=
  { h with port := rfl, resp := rfl }

theorem ObservablyEqual.respond {v v' : Word} (hv : v = v') : ObservablyEqual (respond v s) (respond v' t) :=
  { h with rdata := hv, resp := congrArg some hv }

theorem ObservablyEqual.setCrc {c c' : Byte} (hc : c = c') :
    ObservablyEqual { s with block := { s.block with crc := c } } { t with block := { t.block with crc := c' } } :=
  { h with crc := hc }

theorem ObservablyEqual.raise_illegalCommand :
    ObservablyEqual { s with block := raise .illegalCommand s.block } { t with block := raise .illegalCommand t.block } :=
  { h with cmderr := rfl }

theorem ObservablyEqual.raise_overRun :
    ObservablyEqual { s with block := raise .overRun s.block } { t with block := raise .overRun t.block } :=
  { h with ovr := rfl }

/-- The status word shows none of what may differ. -/
theorem ObservablyEqual.statusWord_eq : statusWord s.block = statusWord t.block := by
  simp only [statusWord, h.eidx, h.cmderr, h.ovr, h.phase]

/-- WORD_READ opens only in DONE and only below N, where the words agree (42_readout.md R152). -/
theorem ObservablyEqual.gatedWord_eq (i : Byte) : gatedWord s.block i = gatedWord t.block i := by
  unfold gatedWord
  rw [← h.phase, ← h.n]
  split
  · rename_i hopen
    exact h.whenDone hopen.1 _ hopen.2
  · rfl

/-- A frame just opened reads nothing of the past: WIDX is 0, POS is 0, and DONE at once means N = 0. -/
theorem ObservablyEqual.openFrame (n : Byte) :
    ObservablyEqual { s with block := openFrame n s.block } { t with block := openFrame n t.block } :=
  { h with
    phase := rfl
    n := rfl
    widx := rfl
    pos := rfl
    eidx := rfl
    ovr := rfl
    afterHigh := fun _ hq => absurd rfl hq
    afterLow := fun _ hq => nomatch hq
    whileRun := fun _ i hi => absurd hi (Nat.not_lt_zero i)
    whenDone := fun hp i hi => absurd hi (not_lt_count_of_openFrame_done hp i) }

/-- FRAME_ABORT leaves IDLE, where no word is readable and no latch is live. -/
theorem ObservablyEqual.closeFrame :
    ObservablyEqual { s with block := closeFrame s.block } { t with block := closeFrame t.block } :=
  { h with
    phase := rfl
    n := rfl
    widx := rfl
    pos := rfl
    eidx := rfl
    ovr := rfl
    cmderr := rfl
    afterHigh := fun hp => nomatch hp
    afterLow := fun hp => nomatch hp
    whileRun := fun hp => nomatch hp
    whenDone := fun hp => nomatch hp }

theorem ObservablyEqual.resetBlock : ObservablyEqual (resetBlock s) (resetBlock t) := by
  have hk : Block.reset t.params = Block.reset s.params := by rw [h.params]
  constructor <;> simp [hk, h.params, h.port, h.resp]

/-- Draining moves the position, by the position alone, and stays in ERR. -/
theorem ObservablyEqual.drainByte (hp : s.block.phase = .err) :
    ObservablyEqual { s with block := drainByte s.block } { t with block := drainByte t.block } := by
  unfold Machine.drainByte
  rw [← h.pos]
  split
  · exact
      { h with
        widx := congrArg (· + 1) h.widx
        pos := rfl
        afterHigh := fun hp' => nomatch hp.symm.trans hp'
        afterLow := fun hp' => nomatch hp.symm.trans hp'
        whileRun := fun hp' => nomatch hp.symm.trans hp' }
  · exact
      { h with
        pos := rfl
        afterHigh := fun hp' => nomatch hp.symm.trans hp'
        afterLow := fun hp' => nomatch hp.symm.trans hp' }

/-- The high byte rewrites HI and FCRC, and makes them live. -/
theorem ObservablyEqual.latchHigh (b : Byte) :
    ObservablyEqual { s with block := { s.block with hi := b, fcrc := crc8Update 0xFF b, pos := .low } }
      { t with block := { t.block with hi := b, fcrc := crc8Update 0xFF b, pos := .low } } :=
  { h with
    pos := rfl
    afterHigh := fun _ _ => ⟨rfl, rfl⟩
    afterLow := fun _ hq => nomatch hq }

/-- The low byte rewrites LO, makes it live, and continues the FCRC that the high byte made live. -/
theorem ObservablyEqual.latchLow (hp : s.block.phase = .run) (hq : s.block.pos = .low) (b : Byte) :
    ObservablyEqual { s with block := { s.block with lo := b, fcrc := crc8Update s.block.fcrc b, pos := .check } }
      { t with block := { t.block with lo := b, fcrc := crc8Update t.block.fcrc b, pos := .check } } :=
  have ⟨hhi, hfcrc⟩ := h.afterHigh hp (by simp [hq])
  { h with
    pos := rfl
    afterHigh := fun _ _ => ⟨hhi, congrArg (crc8Update · b) hfcrc⟩
    afterLow := fun _ _ => rfl }

/-- The word stored is assembled from live latches, so the words up to and with it agree. -/
theorem ObservablyEqual.acceptTriple (hp : s.block.phase = .run) (hq : s.block.pos = .check) :
    ObservablyEqual { s with block := acceptTriple s.block } { t with block := acceptTriple t.block } := by
  obtain ⟨hhi, -⟩ := h.afterHigh hp (by simp [hq])
  have hindex : storeIndex t.block = storeIndex s.block := congrArg BitVec.toNat h.widx.symm
  have hword : joinBytes t.block.hi t.block.lo = joinBytes s.block.hi s.block.lo := by
    rw [hhi, h.afterLow hp hq]
  have hwords : ∀ i, i < (s.block.widx + 1).toNat →
      readWord (Machine.acceptTriple s.block) i = readWord (Machine.acceptTriple t.block) i := by
    intro i hi
    have hstored := readWord_writeWord_congr (i := storeIndex s.block) (j := i)
      (joinBytes s.block.hi s.block.lo) h.bufferSize fun hne => by
        have hlt : i < s.block.widx.toNat := by
          rw [storeIndex, wordIndex] at hne
          bv_omega
        exact h.whileRun hp i hlt
    rw [← hindex, ← hword] at hstored
    simpa [readWord, hindex, hword] using hstored
  exact
    { h with
      phase := by simp [h.widx, h.n, h.phase]
      widx := congrArg (· + 1) h.widx
      pos := rfl
      bufferSize := by simp [h.bufferSize]
      afterHigh := fun _ hq' => absurd rfl hq'
      afterLow := fun _ hq' => nomatch hq'
      whileRun := fun _ => hwords
      whenDone := fun hp' => by
        obtain ⟨heq, -⟩ | ⟨-, hrun⟩ := acceptTriple_phase_cases hp
        · simpa [← heq] using hwords
        · exact nomatch hrun.symm.trans hp' }

/-- A mismatch leaves ERR and shows WIDX only. -/
theorem ObservablyEqual.rejectTriple :
    ObservablyEqual { s with block := rejectTriple s.block } { t with block := rejectTriple t.block } :=
  { h with
    phase := rfl
    widx := congrArg (· + 1) h.widx
    pos := rfl
    eidx := h.widx
    afterHigh := fun hp => nomatch hp
    afterLow := fun hp => nomatch hp
    whileRun := fun hp => nomatch hp
    whenDone := fun hp => nomatch hp }

theorem ObservablyEqual.byteExpected_iff : ByteExpected s.block ↔ ByteExpected t.block := by
  simp only [ByteExpected, h.phase, h.widx, h.n]

/-- The two blocks take the same case of R123: PHASE, WIDX, N and POS agree, and at POS 2 in RUN so does FCRC. -/
theorem ObservablyEqual.frameByte (b : Byte) :
    ObservablyEqual { s with block := frameByte b s.block } { t with block := frameByte b t.block } := by
  have hcheck (hp : s.block.phase = .run) (hq : s.block.pos = .check) : s.block.fcrc = t.block.fcrc :=
    (h.afterHigh hp (by simp [hq])).2
  obtain ⟨hne, hk⟩ | ⟨hp, hw, hk⟩ | ⟨hp, hq, hk⟩ | ⟨hp, hq, hk⟩ | ⟨hp, hq, hb, hk⟩ | ⟨hp, hq, hb, hk⟩ :=
    frameByte_cases b s.block <;> rw [hk]
  · rw [frameByte_unexpected (h.byteExpected_iff.not.mp hne)]
    exact h.raise_overRun
  · rw [frameByte_drain (h.phase ▸ hp) (h.widx ▸ h.n ▸ hw)]
    exact h.drainByte hp
  · rw [frameByte_high (h.phase ▸ hp) (h.pos ▸ hq)]
    exact h.latchHigh b
  · rw [frameByte_low (h.phase ▸ hp) (h.pos ▸ hq)]
    exact h.latchLow hp hq b
  · rw [frameByte_match (h.phase ▸ hp) (h.pos ▸ hq) (hcheck hp hq ▸ hb)]
    exact h.acceptTriple hp hq
  · rw [frameByte_mismatch (h.phase ▸ hp) (h.pos ▸ hq) (hcheck hp hq ▸ hb)]
    exact h.rejectTriple

/-- FRAME_START's own check of the count reads the parameters only (log entry 6). -/
theorem ObservablyEqual.execFrameStart (n : Byte) :
    ∃ s' t', execFrameStart n s = .next s' ∧ execFrameStart n t = .next t' ∧ ObservablyEqual s' t' := by
  by_cases hn : n.toNat ≤ s.params.maxWords
  · exact ⟨_, _, execFrameStart_of_le hn, execFrameStart_of_le (h.params ▸ hn), h.openFrame n⟩
  · exact ⟨_, _, execFrameStart_of_not_le hn, execFrameStart_of_not_le (h.params ▸ hn), h.raise_illegalCommand⟩

theorem ObservablyEqual.exec (i : Instr) :
    ∃ s' t', exec i s = .next s' ∧ exec i t = .next t' ∧ ObservablyEqual s' t' := by
  cases i with
  | nop => exact ⟨_, _, rfl, rfl, h⟩
  | crcInit => exact ⟨_, _, rfl, rfl, h.setCrc rfl⟩
  | crcByte b => exact ⟨_, _, rfl, rfl, h.setCrc (congrArg (crc8Update · b) h.crc)⟩
  | crcRead => exact ⟨_, _, rfl, rfl, h.respond (congrArg zext16 h.crc)⟩
  | frameStart n => exact h.execFrameStart n
  | frameByte b => exact ⟨_, _, rfl, rfl, h.frameByte b⟩
  | frameAbort => exact ⟨_, _, rfl, rfl, h.closeFrame⟩
  | statusRead => exact ⟨_, _, rfl, rfl, h.respond h.statusWord_eq⟩
  | wordRead j => exact ⟨_, _, rfl, rfl, h.respond (h.gatedWord_eq j)⟩

end ObservablyEqualOps

/-- Settles O16: the two states take the same input, and every kind of step keeps the relation. -/
theorem staleStateIsUnobservable : Obligations.StaleStateIsUnobservable := by
  intro s t h
  have hport := h.port
  rcases hp : s.port with _ | ⟨_ | _, rest⟩ <;> rw [hp] at hport
  case nil => exact ⟨_, _, step_idle hp, step_idle hport.symm, { h with resp := rfl }⟩
  case cons.command w =>
    have htaken := h.taken rest
    cases hd : decode s.params w with
    | none =>
      exact ⟨_, _, step_illegal hp hd, step_illegal hport.symm (h.params ▸ hd), htaken.raise_illegalCommand⟩
    | some i =>
      rw [step_legal hp hd, step_legal hport.symm (h.params ▸ hd)]
      exact htaken.exec i
  case cons.reset => exact ⟨_, _, step_reset hp, step_reset hport.symm, (h.taken rest).resetBlock⟩

end Sys2Proof.Machine

namespace Sys2Proof.Machine

/-! ## Which registers a command can write (10_state.md R21 to R32) -/

/-- A frame byte leaves the checksum engine, N and the two command records alone. -/
theorem frameByte_frame (b : Byte) (k : Block) :
    (frameByte b k).crc = k.crc ∧ (frameByte b k).n = k.n ∧ (frameByte b k).cmderr = k.cmderr ∧
      (frameByte b k).rdata = k.rdata := by
  obtain ⟨-, hk⟩ | ⟨-, -, hk⟩ | ⟨-, -, hk⟩ | ⟨-, -, hk⟩ | ⟨-, -, -, hk⟩ | ⟨-, -, -, hk⟩ := frameByte_cases b k
  case inr.inl => obtain ⟨-, h'⟩ | ⟨-, h'⟩ := drainByte_cases k <;> simp [hk, h']
  all_goals simp [hk]

/-- Settles O36, command by command: what a command writes is the fields of its record update, and a FRAME_BYTE, whose
update depends on the case of R123, leaves the registers of `frameByte_frame`. -/
theorem eachRegisterHasItsOwnWriters : Obligations.EachRegisterHasItsOwnWriters := by
  intro s t w rest hport hs
  obtain ⟨hp, -⟩ | ⟨_, hp, -⟩ | ⟨w', rest', i, hp, hd, hx⟩ | ⟨w', rest', hp, hd, rfl⟩ := step_cases hs
  · cases hport.symm.trans hp
  · cases hport.symm.trans hp
  · cases hport.symm.trans hp
    cases i with
    | frameStart n =>
      cases (execFrameStart_of_le (s := { s with port := rest, resp := none }) (count_le_of_decode hd)).symm.trans hx
      simp [hd]
    | frameByte b =>
      cases hx
      simp [hd, frameByte_frame b s.block]
    | nop | crcInit | crcByte | crcRead | frameAbort | statusRead | wordRead =>
      cases hx
      simp [hd, isReadCommand]
  · cases hport.symm.trans hp
    simp [hd]

end Sys2Proof.Machine

namespace Sys2Proof.Machine

/-! ## A run is the left fold of its steps (20_memory.md R61)

A step reads of the port only its next input, and of the last response nothing; so the steps of a run are the steps of
`blockStep`, which sees one input alone. -/

/-- A command does not look at the inputs still waiting. -/
theorem exec_withPort {i : Instr} {s t : State} (p : List Input) (h : exec i s = .next t) :
    exec i { s with port := p } = .next { t with port := p } := by
  cases i <;> (cases h; rfl)

/-- A step takes the first input and leaves those after it, whatever they are, and whatever response was driven before. -/
theorem step_withPort {s t : State} {x : Input} {rest : List Input} (hp : s.port = x :: rest) (h : step s = .next t)
    (p : List Input) (r : Option Word) :
    step { s with port := x :: p, resp := r } = .next { t with port := p } := by
  obtain ⟨hp', -⟩ | ⟨rest', hp', rfl⟩ | ⟨w, rest', i, hp', hd, hx⟩ | ⟨w, rest', hp', hd, rfl⟩ := step_cases h
    <;> cases hp.symm.trans hp'
  · exact step_reset (s := { s with port := .reset :: p, resp := r }) rfl
  · exact (step_legal (s := { s with port := .command w :: p, resp := r }) rfl hd).trans (exec_withPort p hx)
  · exact step_illegal (s := { s with port := .command w :: p, resp := r }) rfl hd

theorem step_port {s t : State} {x : Input} {rest : List Input} (hp : s.port = x :: rest) (h : step s = .next t) :
    t.port = rest := by
  have hsame := step_withPort hp h rest s.resp
  rw [← hp] at hsame
  exact congrArg State.port (Host.Outcome.next.inj (h.symm.trans hsame))

/-- `blockStep` is the step on an input, without what the step leaves as it was. -/
theorem blockStep_of_step {s t : State} {x : Input} {rest : List Input} (hp : s.port = x :: rest)
    (h : step s = .next t) : blockStep s.params s.block x = (t.block, t.resp) := by
  have hone : step { params := s.params, block := s.block, port := [x], resp := none } = .next { t with port := [] } :=
    step_withPort hp h [] none
  rw [blockStep, hone]

theorem run_succ_of_step {M : Host.Core} {s t : M.State} (h : M.step s = .next t) (k : Nat) :
    M.run (k + 1) s = M.run k t := by
  rw [Host.Core.run, h]

/-- Settles O41, by induction on the inputs: the first step is `blockStep` on the first input, and it leaves the others on
the port. -/
theorem runIsLeftFoldOfSteps : Obligations.RunIsLeftFoldOfSteps := by
  intro s inputs
  induction inputs generalizing s with
  | nil => exact fun rest hp => ⟨s, rfl, hp, rfl, rfl⟩
  | cons x xs ih =>
    intro rest hp
    obtain ⟨u, hu⟩ := everyStepAnswersNext s
    have hparams := step_keeps_params hu
    obtain ⟨t, hrun, hport, htp, hblock⟩ := ih u rest (step_port hp hu)
    refine ⟨t, (run_succ_of_step (M := core) hu xs.length).trans hrun, hport, htp.trans hparams, ?_⟩
    rw [hblock, hparams, List.foldl_cons, blockStep_of_step hp hu]

/-! ## Idempotent commands (20_memory.md R58) -/

/-- The word a read command responds from a block (40_crc.md R105, 42_readout.md R151 and R152). -/
def readValue (i : Instr) (k : Block) : Word :=
  match i with
  | .crcRead => zext16 k.crc
  | .statusRead => statusWord k
  | .wordRead j => gatedWord k j
  | .nop | .crcInit | .crcByte _ | .frameStart _ | .frameByte _ | .frameAbort => 0

theorem exec_read {i : Instr} (hi : isReadCommand i = true) (s : State) :
    exec i s = .next (respond (readValue i s.block) s) := by
  cases i with
  | crcRead | statusRead | wordRead => rfl
  | nop | crcInit | crcByte | frameStart | frameByte | frameAbort => cases hi

/-- No read command reads RDATA, the one field it writes. -/
theorem readValue_withRdata (i : Instr) (k : Block) (v : Word) : readValue i { k with rdata := v } = readValue i k := by
  cases i <;> rfl

theorem exec_read_idempotent {i : Instr} {s t : State} (hi : isReadCommand i = true) (h : exec i s = .next t) :
    exec i t = .next t := by
  cases (exec_read hi s).symm.trans h
  rw [exec_read hi, respond_block, readValue_withRdata]
  rfl

/-- What FRAME_START writes depends on ARG and MAX_WORDS alone, in either case of R122. -/
theorem exec_frameStart_idempotent {n : Byte} {s t : State} (h : exec (.frameStart n) s = .next t) :
    exec (.frameStart n) t = .next t := by
  by_cases hn : n.toNat ≤ s.params.maxWords
  · cases (execFrameStart_of_le hn).symm.trans h
    exact execFrameStart_of_le hn
  · cases (execFrameStart_of_not_le hn).symm.trans h
    exact execFrameStart_of_not_le hn

/-- CRC_BYTE consumes its byte: CRC moves again, unless the byte left a fixed point. -/
theorem exec_crcByte_not_idempotent {b : Byte} {s : State}
    (h : crc8Update (crc8Update s.block.crc b) b ≠ crc8Update s.block.crc b) :
    ∃ t u, exec (.crcByte b) s = .next t ∧ exec (.crcByte b) t = .next u ∧ u ≠ t :=
  ⟨_, _, rfl, rfl, fun heq => h (congrArg (·.block.crc) heq)⟩

/-- FRAME_BYTE consumes its byte: the byte after the high one is the low one, and the checksum byte is then due. -/
theorem exec_frameByte_not_idempotent (b : Byte) {s : State} (hp : s.block.phase = .run) (hq : s.block.pos = .high) :
    ∃ t u, exec (.frameByte b) s = .next t ∧ exec (.frameByte b) t = .next u ∧ u ≠ t := by
  have hrun : (frameByte b s.block).phase = .run := by rw [frameByte_high hp hq]; exact hp
  have hlow : (frameByte b s.block).pos = .low := by rw [frameByte_high hp hq]
  have hcheck : (frameByte b (frameByte b s.block)).pos = .check := by rw [frameByte_low hrun hlow]
  exact ⟨_, _, rfl, rfl, fun heq => nomatch hcheck.symm.trans ((congrArg (·.block.pos) heq).trans hlow)⟩

/-- A frame of one word right after reset, in RUN with the high byte due. -/
def openedAtReset : State := { State.reset with block := openFrame 1 (Block.reset Params.reference) }

theorem invariant_openedAtReset : Invariant openedAtReset :=
  (resetMeetsInvariant Params.reference rfl).1.openFrame (n := 1) (by decide)

/-- Settles O39. CRC_BYTE 0xBE moves CRC again the second time, and a second FRAME_BYTE is the low byte after the high. -/
theorem idempotentCommands : Obligations.IdempotentCommands := by
  refine ⟨fun i s t hi h => ?_, fun i s t hi h => ?_, ?_, ?_⟩
  · have hagain := exec_read_idempotent hi h
    cases (exec_read hi s).symm.trans h
    exact ⟨rfl, rfl, hagain⟩
  · obtain rfl | rfl | rfl | ⟨n, rfl⟩ := hi
    · cases h; rfl
    · cases h; rfl
    · cases h; rfl
    · exact exec_frameStart_idempotent h
  · have hcrc : crc8Update (crc8Update 0xFF 0xBE) 0xBE ≠ crc8Update 0xFF 0xBE := by
      rw [show crc8Update 0xFF 0xBE = 0x0C by decide]
      decide
    exact ⟨0xBE, State.reset, exec_crcByte_not_idempotent hcrc⟩
  · obtain ⟨t, u, ht, hu, hne⟩ := exec_frameByte_not_idempotent 0xBE (s := openedAtReset) rfl rfl
    exact ⟨0xBE, openedAtReset, t, u, invariant_openedAtReset, ht, hu, hne⟩

/-! ## Word assembly (20_memory.md R51) -/

/-- `hi ++ lo` of 00_scope.md R8 is the concatenation of bit vectors. -/
theorem joinBytes_eq_append (hi lo : Byte) : joinBytes hi lo = hi ++ lo := by
  rw [BitVec.append_def, BitVec.shiftLeftZeroExtend_eq]
  rfl

/-- Settles O23: each byte is its half of the concatenation, and the low byte is below 2^8. -/
theorem wordAssemblyIsBigEndian : Obligations.WordAssemblyIsBigEndian := by
  intro hi lo
  rw [joinBytes_eq_append]
  refine ⟨BitVec.extractLsb'_append_eq_left, BitVec.extractLsb'_append_eq_right, ?_⟩
  calc (hi ++ lo).toNat
      = hi.toNat <<< 8 ||| lo.toNat := BitVec.toNat_append hi lo
    _ = hi.toNat <<< 8 + lo.toNat := (Nat.shiftLeft_add_eq_or_of_lt lo.isLt hi.toNat).symm
    _ = 256 * hi.toNat + lo.toNat := by rw [Nat.shiftLeft_eq, Nat.mul_comm]

end Sys2Proof.Machine

namespace Sys2Proof.Machine

/-! ## Decode and encode (30_encoding.md R70, R72, R79)

A word is its three fields, and the decoder reads nothing else of it. -/

/-- OP, RSV and ARG are the whole word (R70). -/
theorem word_eq_append_fields (w : Word) : w = fieldOp w ++ fieldRsv w ++ fieldArg w := by
  have hop : fieldOp w ++ fieldRsv w = w.extractLsb' 8 8 := BitVec.extractLsb'_append_extractLsb'_eq_extractLsb' rfl
  rw [hop, fieldArg, BitVec.extractLsb'_append_extractLsb'_eq_extractLsb' (by rfl)]
  exact BitVec.extractLsb'_eq_self.symm

theorem fields_of_encode (i : Instr) : Laws.FieldsOfEncoding.Statement i :=
  Laws.FieldsOfEncoding.of_fields (opcode i) (operand i)

theorem encode_eq_iff_fields {i : Instr} {w : Word} :
    encode i = w ↔ fieldOp w = opcode i ∧ fieldRsv w = 0 ∧ fieldArg w = operand i := by
  constructor
  · rintro rfl
    exact fields_of_encode i
  · rintro ⟨hop, hrsv, harg⟩
    obtain ⟨hop', hrsv', harg'⟩ := fields_of_encode i
    rw [word_eq_append_fields (encode i), word_eq_append_fields w, hop, hrsv, harg, hop', hrsv', harg']

theorem decodeNamed_legal_fields {P : Params} {w : Word} {i : Instr} (h : decodeNamed P w = .legal i) :
    fieldOp w = opcode i ∧ fieldRsv w = 0 ∧ fieldArg w = operand i := by
  simp only [decodeNamed] at h
  split at h
  case isTrue => cases h
  case isFalse hrsv =>
    refine and_left_comm.mp ⟨not_not.mp hrsv, ?_⟩
    split at h
    -- the commands without an operand
    case h_1 hop | h_2 hop | h_4 hop | h_7 hop | h_8 hop =>
      obtain ⟨harg, rfl⟩ := zeroOperand_eq_legal_iff.mp h
      exact ⟨hop, harg⟩
    -- CRC_BYTE, FRAME_BYTE and WORD_READ
    case h_3 hop | h_6 hop | h_9 hop => cases h; exact ⟨hop, rfl⟩
    -- FRAME_START
    case h_5 hop =>
      split at h
      case isTrue => cases h; exact ⟨hop, rfl⟩
      case isFalse => cases h
    -- a reserved OP
    case h_10 => cases h

theorem decode_encode {P : Params} {i : Instr} (hwf : wellFormed P i = true) : decode P (encode i) = some i := by
  obtain ⟨hop, hrsv, harg⟩ := fields_of_encode i
  rw [decode_eq_some_iff, decodeNamed, hop, hrsv, harg]
  cases i with
  | frameStart n => simp [opcode, operand, show n.toNat ≤ P.maxWords from of_decide_eq_true hwf]
  | nop | crcInit | crcByte | crcRead | frameByte | frameAbort | statusRead | wordRead =>
    simp [opcode, operand, zeroOperand]

theorem encode_injOn {P : Params} {i j : Instr} (hi : wellFormed P i = true) (hj : wellFormed P j = true)
    (h : encode i = encode j) : i = j := by
  have hdec := decode_encode hi
  rw [h, decode_encode hj] at hdec
  exact (Option.some.inj hdec).symm

theorem decode_eq_some_iff_encode {P : Params} {w : Word} {i : Instr} :
    decode P w = some i ↔ wellFormed P i = true ∧ encode i = w := by
  constructor
  · intro h
    exact ⟨decode_wellFormed h, encode_eq_iff_fields.mpr (decodeNamed_legal_fields (decode_eq_some_iff.mp h))⟩
  · rintro ⟨hwf, rfl⟩
    exact decode_encode hwf

/-- Settles O1: decoding gives the instruction whose fields the word has, and its check is the operand constraint. -/
theorem decodeIsInverseOfEncode : Obligations.DecodeIsInverseOfEncode :=
  fun _ _ _ => decode_eq_some_iff_encode

/-! ## Which words are legal (30_encoding.md R73, R74) -/

theorem legalWord_encode {P : Params} {i : Instr} (hwf : wellFormed P i = true) : LegalWord P (encode i) := by
  obtain ⟨hop, hrsv, harg⟩ := fields_of_encode i
  simp only [fieldOp, fieldRsv, fieldArg] at hop hrsv harg
  rw [LegalWord, hop, hrsv, harg]
  cases i with
  | frameStart n => simpa [opcode, operand, wellFormed] using hwf
  | nop | crcInit | crcByte | crcRead | frameByte | frameAbort | statusRead | wordRead =>
    simp [opcode, operand]

theorem opcode_cases {op : BitVec 4} (h : op ≤ 0x8#4) :
    op = 0 ∨ op = 1 ∨ op = 2 ∨ op = 3 ∨ op = 4 ∨ op = 5 ∨ op = 6 ∨ op = 7 ∨ op = 8 := by
  revert op
  decide

/-- Each OP that R73 allows names a command that has the word's fields. -/
theorem exists_encode_of_legalWord {P : Params} {w : Word} (h : LegalWord P w) :
    ∃ i, wellFormed P i = true ∧ encode i = w := by
  obtain ⟨hrsv, hle, hzero, hcount⟩ := h
  simp only [encode_eq_iff_fields]
  obtain hop | hop | hop | hop | hop | hop | hop | hop | hop := opcode_cases hle
  · exact ⟨.nop, rfl, hop, hrsv, hzero (by simp [hop])⟩
  · exact ⟨.crcInit, rfl, hop, hrsv, hzero (by simp [hop])⟩
  · exact ⟨.crcByte (fieldArg w), rfl, hop, hrsv, rfl⟩
  · exact ⟨.crcRead, rfl, hop, hrsv, hzero (by simp [hop])⟩
  · exact ⟨.frameStart (fieldArg w), decide_eq_true (hcount hop), hop, hrsv, rfl⟩
  · exact ⟨.frameByte (fieldArg w), rfl, hop, hrsv, rfl⟩
  · exact ⟨.frameAbort, rfl, hop, hrsv, hzero (by simp [hop])⟩
  · exact ⟨.statusRead, rfl, hop, hrsv, hzero (by simp [hop])⟩
  · exact ⟨.wordRead (fieldArg w), rfl, hop, hrsv, rfl⟩

theorem exists_decode_iff_legalWord {P : Params} {w : Word} : (∃ i, decode P w = some i) ↔ LegalWord P w := by
  simp only [decode_eq_some_iff_encode]
  constructor
  · rintro ⟨i, hwf, rfl⟩
    exact legalWord_encode hwf
  · exact exists_encode_of_legalWord

theorem decode_eq_none_iff {P : Params} {w : Word} : decode P w = none ↔ ¬ LegalWord P w := by
  rw [← exists_decode_iff_legalWord, ← Option.isSome_iff_exists, Bool.not_eq_true, Option.isSome_eq_false_iff,
    Option.isNone_iff_eq_none]

/-- The 256 bytes. -/
def allBytes : List Byte := (List.finRange 256).map BitVec.ofFin

theorem mem_allBytes (b : Byte) : b ∈ allBytes := List.mem_map.mpr ⟨b.toFin, List.mem_finRange _, rfl⟩

theorem nodup_allBytes : allBytes.Nodup := (List.nodup_finRange 256).map fun _ _ h => congrArg BitVec.toFin h

/-- Every instruction, well formed or not: five without an operand, and four with any byte. -/
def allInstrs : List Instr :=
  [.nop, .crcInit, .crcRead, .frameAbort, .statusRead] ++ allBytes.map Instr.crcByte ++
    allBytes.map Instr.frameByte ++ allBytes.map Instr.wordRead ++ allBytes.map Instr.frameStart

theorem mem_allInstrs (i : Instr) : i ∈ allInstrs := by
  cases i <;> simp [allInstrs, mem_allBytes]

theorem nodup_allInstrs : allInstrs.Nodup := by
  have hb : (allBytes.map Instr.crcByte).Nodup := nodup_allBytes.map fun _ _ => Instr.crcByte.inj
  have hf : (allBytes.map Instr.frameByte).Nodup := nodup_allBytes.map fun _ _ => Instr.frameByte.inj
  have hw : (allBytes.map Instr.wordRead).Nodup := nodup_allBytes.map fun _ _ => Instr.wordRead.inj
  have hn : (allBytes.map Instr.frameStart).Nodup := nodup_allBytes.map fun _ _ => Instr.frameStart.inj
  simp only [allInstrs, List.nodup_append]
  refine ⟨⟨⟨⟨by decide, hb, ?_⟩, hf, ?_⟩, hw, ?_⟩, hn, ?_⟩ <;> simp [or_imp, forall_and]

/-- R73's sum: the five without an operand, three with any byte, and FRAME_START with 0 to 16. -/
theorem length_wellFormedInstrs {P : Params} (hP : P.maxWords = 16) :
    (allInstrs.filter (wellFormed P)).length = 5 + 3 * 256 + 17 := by
  have hbytes : allBytes.length = 256 := by simp [allBytes]
  have hcounts : (allBytes.filter fun n => decide (n.toNat ≤ 16)).length = 17 := by decide
  simp [allInstrs, List.filter_cons, List.filter_map, Function.comp_def, wellFormed, hP, hbytes, hcounts]

/-- The values of the legal words are those of the well-formed instructions' words. -/
theorem legal_values_perm (P : Params) :
    ((List.range 65536).filter fun v => (decode P (BitVec.ofNat 16 v)).isSome).Perm
      ((allInstrs.filter (wellFormed P)).map fun i => (encode i).toNat) := by
  have hlegal := (List.nodup_range (n := 65536)).filter fun v => (decode P (BitVec.ofNat 16 v)).isSome
  have hwords : ((allInstrs.filter (wellFormed P)).map fun i => (encode i).toNat).Nodup :=
    (nodup_allInstrs.filter _).map_on fun i hi j hj h =>
      encode_injOn (List.of_mem_filter hi) (List.of_mem_filter hj) (BitVec.eq_of_toNat_eq h)
  refine (List.perm_ext_iff_of_nodup hlegal hwords).mpr fun v => ?_
  simp only [List.mem_filter, List.mem_range, List.mem_map, mem_allInstrs, true_and, Option.isSome_iff_exists,
    decode_eq_some_iff_encode]
  constructor
  · rintro ⟨hv, i, hwf, henc⟩
    exact ⟨i, hwf, by rw [henc, BitVec.toNat_ofNat, Nat.mod_eq_of_lt hv]⟩
  · rintro ⟨i, hwf, rfl⟩
    exact ⟨(encode i).isLt, i, hwf, by simp⟩

/-- Settles O2: the fields of a legal word name its instruction, and the legal words are as many as the well-formed
instructions. -/
theorem legalWordsAreThoseOfR73 : Obligations.LegalWordsAreThoseOfR73 := by
  refine ⟨fun _ _ => exists_decode_iff_legalWord, fun P hP => ?_⟩
  rw [(legal_values_perm P).length_eq, List.length_map, length_wellFormedInstrs hP]

/-- Settles O3: each case of R74 denies one of the conditions of R73. -/
theorem illegalWordOnlySetsCmdErr : Obligations.IllegalWordOnlySetsCmdErr := by
  refine ⟨fun _ _ _ hp hd => step_illegal hp hd, ?_, ?_, ?_, ?_⟩
  · exact fun P w hrsv => decode_eq_none_iff.mpr fun ⟨h, _⟩ => hrsv h
  · exact fun P w hop => decode_eq_none_iff.mpr fun ⟨_, h, _⟩ => absurd (BitVec.le_trans hop h) (by decide)
  · exact fun P w harg hop => decode_eq_none_iff.mpr fun ⟨_, _, h, _⟩ => harg (h hop)
  · exact fun P w hop hcount => decode_eq_none_iff.mpr fun ⟨_, _, _, h⟩ => Nat.not_lt.mpr (h hop) hcount

/-- Settles O7: the nine words are the encodings of well-formed commands, and the four others each fail R73. -/
theorem wordsOfTheOpcodeMapDecode : Obligations.WordsOfTheOpcodeMapDecode := by
  intro P hP
  simp only [decode_eq_some_iff_encode, decode_eq_none_iff, LegalWord, wellFormed, hP]
  decide

end Sys2Proof.Machine

namespace Sys2Proof.Machine

/-! ## What a word that encodes an instruction does (30_encoding.md R78, R80) -/

theorem step_encode {s : State} {rest : List Input} {i : Instr} (hp : s.port = .command (encode i) :: rest)
    (hwf : wellFormed s.params i = true) : step s = exec i (taken s rest) :=
  step_legal hp (decode_encode hwf)

theorem isReadCommand_wellFormed {i : Instr} (hi : isReadCommand i = true) (P : Params) : wellFormed P i = true := by
  cases i with
  | frameStart => cases hi
  | nop | crcInit | crcByte | crcRead | frameByte | frameAbort | statusRead | wordRead => rfl

/-- A command that is no read leaves the response port and RDATA alone. -/
theorem exec_keeps_response {i : Instr} {s t : State} (hi : isReadCommand i = false) (h : exec i s = .next t) :
    t.resp = s.resp ∧ t.block.rdata = s.block.rdata := by
  cases i with
  | crcRead | statusRead | wordRead => cases hi
  | frameStart n =>
    cases h
    exact ⟨rfl, by by_cases hn : wordCount n ≤ s.params.maxWords <;> simp [hn]⟩
  | frameByte b =>
    cases h
    obtain ⟨-, -, -, hrdata⟩ := frameByte_frame b s.block
    exact ⟨rfl, hrdata⟩
  | nop | crcInit | crcByte | frameAbort => cases h; exact ⟨rfl, rfl⟩

/-- Settles O40, by the kind of the input; a legal command responds exactly when it is a read. -/
theorem onlyReadsDriveAResponse : Obligations.OnlyReadsDriveAResponse := by
  intro s t x rest hport hs
  obtain ⟨hp, -⟩ | ⟨_, hp, rfl⟩ | ⟨w, _, i, hp, hd, hx⟩ | ⟨w, _, hp, hd, rfl⟩ := step_cases hs
    <;> cases hport.symm.trans hp
  case inr.inl => simp [inputInstr, isIllegalWord]
  case inr.inr.inl =>
    have hread : isReadCommand i = true → t.resp = some t.block.rdata := by
      intro hi
      cases (exec_read hi _).symm.trans hx
      rfl
    have hother (hi : isReadCommand i = false) := exec_keeps_response hi hx
    simpa [inputInstr, isIllegalWord, hd] using ⟨hread, hother⟩
  case inr.inr.inr => simp [inputInstr, isIllegalWord, hd]

/-! ## FEED_WORD (30_encoding.md R78, 41_frame.md R123) -/

theorem blockStep_frameByte (P : Params) (k : Block) (b : Byte) :
    blockStep P k (.command (encode (.frameByte b))) = (frameByte b k, none) :=
  blockStep_of_step (s := { params := P, block := k, port := [.command (encode (.frameByte b))], resp := none })
    (t := { params := P, block := frameByte b k, port := [], resp := none }) rfl
    (step_encode (rest := []) (i := .frameByte b) rfl rfl)

/-- Every index below N is inside WBUF (10_state.md R34). -/
theorem Invariant.lt_buffer {s : State} (h : Invariant s) {i : Nat} (hi : i < s.block.n.toNat) :
    i < s.block.wbuf.length := by
  rw [(Memory.wf_iff _ _).mp h.buffer]
  exact Nat.lt_of_lt_of_le hi h.i1

/-- A triple with its own checksum, from the high byte on, is accepted. -/
theorem frameByte_triple {k : Block} (hp : k.phase = .run) (hq : k.pos = .high) (hi lo : Byte) :
    frameByte (checksum [hi, lo]) (frameByte lo (frameByte hi k)) =
      acceptTriple { k with hi := hi, lo := lo, fcrc := checksum [hi, lo], pos := .check } := by
  rw [frameByte_high hp hq, frameByte_low (k := { k with hi := hi, fcrc := crc8Update 0xFF hi, pos := .low }) hp rfl]
  exact frameByte_match hp rfl rfl

/-- Settles O48: the run is the fold of three frame bytes, which R34 keeps inside WBUF. -/
theorem feedWordDeliversValidTriple : Obligations.FeedWordDeliversValidTriple := by
  intro s hi lo rest hinv hp hq hport
  obtain ⟨t, hrun, htport, -, hblock⟩ := runIsLeftFoldOfSteps s _ rest hport
  have hin := hinv.lt_buffer (BitVec.lt_def.mp (hinv.i5 hp))
  simp only [expand, commandInputs, List.map_cons, List.map_nil, List.foldl_cons, List.foldl_nil, blockStep_frameByte,
    frameByte_triple hp hq] at hblock
  refine ⟨t, hrun, htport, ?_⟩
  simp [hblock, hp, storeIndex, wordIndex, readWord, hin]

/-! ## READ_WORDS (30_encoding.md R78, 42_readout.md R152) -/

/-- Each of a stream of reads responds its value in the block before the stream. -/
theorem run_reads_responds {reads : List Instr} (hreads : ∀ i ∈ reads, isReadCommand i = true) {s : State}
    {rest : List Input} (hport : s.port = commandInputs reads ++ rest) {k : Nat} {i : Instr} (hk : reads[k]? = some i) :
    ∃ t, Host.Core.run core (k + 1) s = .next t ∧ t.resp = some (readValue i s.block) := by
  induction reads generalizing s k with
  | nil => cases hk
  | cons j js ih =>
    have hj := hreads j List.mem_cons_self
    have hs := (step_encode hport (isReadCommand_wellFormed hj _)).trans
      (exec_read hj (taken s (commandInputs js ++ rest)))
    rw [run_succ_of_step (M := core) hs]
    cases k with
    | zero => cases hk; exact ⟨_, rfl, rfl⟩
    | succ k =>
      obtain ⟨t, hrun, hresp⟩ :=
        ih (s := respond _ (taken s _)) (fun i hi => hreads i (List.mem_cons_of_mem _ hi)) rfl hk
      exact ⟨t, hrun, hresp.trans (congrArg some (readValue_withRdata i _ _))⟩

theorem gatedWord_done {k : Block} {i : Byte} (hp : k.phase = .done) (hi : i < k.n) :
    gatedWord k i = readWord k i.toNat :=
  if_pos ⟨hp, hi⟩

/-- Settles O49: read k of the stream is WORD_READ k, and below N it is the entry k that R34 gives WBUF. -/
theorem readWordsRespondsEachWord : Obligations.ReadWordsRespondsEachWord := by
  intro s n rest k hinv hp hn hport hk
  have hkn : k < s.block.n.toNat := Nat.lt_of_lt_of_le hk (BitVec.le_def.mp hn)
  have hin := hinv.lt_buffer hkn
  have hval : (BitVec.ofNat 8 k).toNat = k := Nat.mod_eq_of_lt (hk.trans n.isLt)
  have hword : readValue (.wordRead (BitVec.ofNat 8 k)) s.block = s.block.wbuf[k] := by
    rw [readValue, gatedWord_done hp (BitVec.lt_def.mpr (hval.symm ▸ hkn)), hval, readWord,
      List.getD_eq_getElem _ _ hin]
  obtain ⟨t, hrun, hresp⟩ := run_reads_responds (by simp [expand, isReadCommand]) hport
    (show (expand (.readWords n))[k]? = some (.wordRead (BitVec.ofNat 8 k)) by simp [expand, hk])
  exact ⟨t, s.block.wbuf[k], List.getElem?_eq_getElem hin, hrun, hresp.trans (congrArg some hword)⟩

end Sys2Proof.Machine

namespace Sys2Proof.Machine

/-! ## Numbers (30_encoding.md R77) -/

/-- Each digit of either case, with its value. -/
theorem digitValue_digits :
    (∀ p ∈ "0123456789abcdef".toList.zipIdx, digitValue p.1 = some p.2) ∧
      ∀ p ∈ "0123456789ABCDEF".toList.zipIdx, digitValue p.1 = some p.2 := by
  decide

theorem digitValue_of_isDigit {base d : Nat} {c : Char} (h : IsDigit base c d) : digitValue c = some d := by
  obtain ⟨-, hc | hc⟩ := h
  · exact digitValue_digits.1 (c, d) (List.mem_zipIdx_iff_getElem?.mpr hc)
  · exact digitValue_digits.2 (c, d) (List.mem_zipIdx_iff_getElem?.mpr hc)

theorem digitsValue_of_digits {base : Nat} {t : List Char} {ds : List Nat} (h : List.Forall₂ (IsDigit base) t ds)
    (acc : Nat) : digitsValue base acc t = some (ds.foldl (fun a d => base * a + d) acc) := by
  induction h generalizing acc with
  | nil => rfl
  | cons hc _ ih => simp [digitsValue, digitValue_of_isDigit hc, hc.1, ih, Nat.mul_comm]

/-- A decimal numeral is not read as `0x`, because `x` is no digit. -/
theorem parseNumber_decimal {t : List Char} {ds : List Nat} (h : List.Forall₂ (IsDigit 10) t ds) (hne : ds ≠ []) :
    parseNumber t = digitsValue 10 0 t := by
  unfold parseNumber
  split
  · cases h; exact absurd rfl hne
  · obtain _ | ⟨_, _ | ⟨hx, _⟩⟩ := h
    exact nomatch digitValue_of_isDigit hx
  · rfl

theorem parseNumber_of_numeral {t : List Char} {v : Nat} (h : Numeral t v) : parseNumber t = some v := by
  obtain ⟨ds, hne, hds, rfl⟩ | ⟨u, ds, rfl, hne, hds, rfl⟩ := h
  · rw [parseNumber_decimal hds hne, digitsValue_of_digits hds]
  · cases hds with
    | nil => exact absurd rfl hne
    | cons hc hcs => exact digitsValue_of_digits (.cons hc hcs) 0

/-! ## Tokens: the texts that a line's blanks, commas and comment do not cut -/

/-- A character that neither separates nor ends the parts of a line. -/
def isTokenChar (c : Char) : Bool := !isBlank c && c != ',' && c != ';'

theorem isTokenChar_iff {c : Char} : isTokenChar c = true ↔ isBlank c = false ∧ c ≠ ',' ∧ c ≠ ';' := by
  simp [isTokenChar, and_assoc]

/-- A mnemonic or a numeral, as a text of a line. -/
structure Token (t : List Char) : Prop where
  nonempty : t ≠ []
  chars : t.all isTokenChar = true

theorem Token.not_blank {t : List Char} (h : Token t) {c : Char} (hc : c ∈ t) : isBlank c = false :=
  (isTokenChar_iff.mp (List.all_eq_true.mp h.chars c hc)).1

theorem Token.ne_comma {t : List Char} (h : Token t) {c : Char} (hc : c ∈ t) : c ≠ ',' :=
  (isTokenChar_iff.mp (List.all_eq_true.mp h.chars c hc)).2.1

theorem Token.ne_semicolon {t : List Char} (h : Token t) {c : Char} (hc : c ∈ t) : c ≠ ';' :=
  (isTokenChar_iff.mp (List.all_eq_true.mp h.chars c hc)).2.2

theorem token_mnemonicText (i : Instr) : Token (mnemonicText i) := by
  cases i <;> exact ⟨List.cons_ne_nil _ _, rfl⟩

theorem token_pseudoText (p : Pseudo) : Token (pseudoText p) := by
  cases p <;> exact ⟨List.cons_ne_nil _ _, rfl⟩

theorem isTokenChar_of_isDigit {base d : Nat} {c : Char} (h : IsDigit base c d) : isTokenChar c = true := by
  have hlower : "0123456789abcdef".toList.all isTokenChar = true := rfl
  have hupper : "0123456789ABCDEF".toList.all isTokenChar = true := rfl
  obtain ⟨-, hc | hc⟩ := h
  · exact List.all_eq_true.mp hlower c (List.mem_of_getElem? hc)
  · exact List.all_eq_true.mp hupper c (List.mem_of_getElem? hc)

theorem token_of_digits {base : Nat} {t : List Char} {ds : List Nat} (h : List.Forall₂ (IsDigit base) t ds)
    (hne : ds ≠ []) : Token t where
  nonempty := by rintro rfl; cases h; exact hne rfl
  chars := by
    clear hne
    induction h with
    | nil => rfl
    | cons hd _ ih => rw [List.all_cons, isTokenChar_of_isDigit hd, ih]; rfl

theorem token_of_numeral {t : List Char} {v : Nat} (h : Numeral t v) : Token t := by
  obtain ⟨ds, hne, hds, -⟩ | ⟨u, ds, rfl, hne, hds, -⟩ := h
  · exact token_of_digits hds hne
  · exact ⟨List.cons_ne_nil _ _, (token_of_digits hds hne).chars⟩

theorem token_of_mem {texts : List (List Char)} {values : List Nat} (h : List.Forall₂ Numeral texts values) :
    ∀ t ∈ texts, Token t := by
  induction h with
  | nil => simp
  | cons ht _ ih => exact List.forall_mem_cons.mpr ⟨token_of_numeral ht, ih⟩

/-! ## Blanks around a text -/

/-- Trimming takes nothing off the front of such a text. -/
def StartsWithToken (t : List Char) : Prop := ∃ u, Token u ∧ u <+: t

/-- Trimming takes nothing off the back of such a text. -/
def EndsWithToken (t : List Char) : Prop := ∃ u, Token u ∧ u <:+ t

theorem Token.reverse {t : List Char} (h : Token t) : Token t.reverse :=
  ⟨mt List.reverse_eq_nil_iff.mp h.nonempty, List.all_reverse.trans h.chars⟩

theorem EndsWithToken.reverse {t : List Char} : EndsWithToken t → StartsWithToken t.reverse
  | ⟨u, hu, hsuffix⟩ => ⟨u.reverse, hu.reverse, List.reverse_prefix.mpr hsuffix⟩

theorem dropWhile_blanks_append {pre t : List Char} (hpre : pre.all isBlank = true) (ht : StartsWithToken t) :
    (pre ++ t).dropWhile isBlank = t := by
  obtain ⟨_ | ⟨c, u⟩, hu, v, rfl⟩ := ht
  · exact absurd rfl hu.nonempty
  · rw [List.dropWhile_append_of_pos (List.all_eq_true.mp hpre)]
    exact List.dropWhile_cons_of_neg (by simp [hu.not_blank List.mem_cons_self])

theorem trimBlanks_of_tokens {pre t post : List Char} (hpre : pre.all isBlank = true) (hpost : post.all isBlank = true)
    (hstart : StartsWithToken t) (hend : EndsWithToken t) : trimBlanks (pre ++ (t ++ post)) = t := by
  obtain ⟨u, hu, hprefix⟩ := hstart
  rw [trimBlanks, dropWhile_blanks_append hpre ⟨u, hu, hprefix.trans (List.prefix_append t post)⟩, List.reverse_append,
    dropWhile_blanks_append (List.all_reverse.trans hpost) hend.reverse, List.reverse_reverse]

theorem trimBlanks_blank_token {t : List Char} (h : Token t) : trimBlanks (' ' :: t) = t := by
  simpa using trimBlanks_of_tokens (pre := [' ']) (post := []) rfl rfl ⟨t, h, List.prefix_rfl⟩ ⟨t, h, List.suffix_rfl⟩

theorem mem_dropWhile_of_not {α : Type} {p : α → Bool} {l : List α} {a : α} (ha : a ∈ l) (hp : p a = false) :
    a ∈ l.dropWhile p := by
  rw [← List.takeWhile_append_dropWhile (p := p) (l := l)] at ha
  exact (List.mem_append.mp ha).resolve_left fun h => by simpa [hp] using List.mem_takeWhile_imp h

theorem mem_trimBlanks {t : List Char} {c : Char} (hc : c ∈ t) (hb : isBlank c = false) : c ∈ trimBlanks t := by
  simp only [trimBlanks, List.mem_reverse]
  exact mem_dropWhile_of_not (List.mem_reverse.mpr (mem_dropWhile_of_not hc hb)) hb

/-! ## Commas between operands -/

theorem splitCommas_ne_nil (t : List Char) : splitCommas t ≠ [] := by
  cases t with
  | nil => simp [splitCommas]
  | cons c t =>
    rw [splitCommas]
    cases splitCommas t with
    | nil => simp
    | cons part parts => by_cases hc : c = ',' <;> simp [hc]

theorem splitCommas_comma (t : List Char) : splitCommas (',' :: t) = [] :: splitCommas t := by
  rw [splitCommas]
  cases h : splitCommas t with
  | nil => exact absurd h (splitCommas_ne_nil t)
  | cons part parts => rfl

/-- A text without a comma goes to the first part of what follows it. -/
theorem splitCommas_append {t r part : List Char} {parts : List (List Char)} (ht : ∀ c ∈ t, c ≠ ',')
    (hr : splitCommas r = part :: parts) : splitCommas (t ++ r) = (t ++ part) :: parts := by
  induction t with
  | nil => exact hr
  | cons c t ih =>
    obtain ⟨hc, ht⟩ := List.forall_mem_cons.mp ht
    simp [splitCommas, ih ht, hc]

/-- What `Spells` puts between a line's name and its end. -/
def operandField (texts : List (List Char)) : List Char :=
  if texts = [] then [] else ' ' :: (texts.intersperse [',', ' ']).flatten

theorem operandField_singleton (t : List Char) : operandField [t] = ' ' :: t := by
  simp [operandField]

theorem operandField_cons_cons (t u : List Char) (us : List (List Char)) :
    operandField (t :: u :: us) = ' ' :: t ++ ',' :: operandField (u :: us) := by
  simp [operandField]

theorem operandField_ne_semicolon : ∀ {texts : List (List Char)}, (∀ t ∈ texts, Token t) →
    ∀ c ∈ operandField texts, c ≠ ';'
  | [], _ => nofun
  | [t], h => by
    rw [operandField_singleton]
    exact List.forall_mem_cons.mpr ⟨by decide, fun _ => (h t List.mem_cons_self).ne_semicolon⟩
  | t :: u :: us, h => by
    obtain ⟨ht, hus⟩ := List.forall_mem_cons.mp h
    rw [operandField_cons_cons, List.cons_append, List.forall_mem_cons, List.forall_mem_append, List.forall_mem_cons]
    exact ⟨by decide, fun _ => ht.ne_semicolon, by decide, operandField_ne_semicolon hus⟩

theorem endsWithToken_operandField : ∀ {texts : List (List Char)}, texts ≠ [] → (∀ t ∈ texts, Token t) →
    EndsWithToken (operandField texts)
  | [t], _, h => ⟨t, h t List.mem_cons_self, operandField_singleton t ▸ List.suffix_cons ' ' t⟩
  | t :: u :: us, _, h => by
    obtain ⟨v, hv, hsuffix⟩ := endsWithToken_operandField (List.cons_ne_nil u us) (List.forall_mem_cons.mp h).2
    refine ⟨v, hv, ?_⟩
    rw [operandField_cons_cons]
    exact hsuffix.trans ((List.suffix_cons _ _).trans (List.suffix_append _ _))

theorem splitCommas_operandField : ∀ {texts : List (List Char)}, texts ≠ [] → (∀ t ∈ texts, Token t) →
    splitCommas (operandField texts) = texts.map (' ' :: ·)
  | [t], _, h => by
    have ht : ∀ c ∈ ' ' :: t, c ≠ ',' :=
      List.forall_mem_cons.mpr ⟨by decide, fun _ => (h t List.mem_cons_self).ne_comma⟩
    simpa [operandField_singleton] using splitCommas_append (r := []) ht rfl
  | t :: u :: us, _, h => by
    have ht : ∀ c ∈ ' ' :: t, c ≠ ',' :=
      List.forall_mem_cons.mpr ⟨by decide, fun _ => (h t List.mem_cons_self).ne_comma⟩
    rw [operandField_cons_cons, splitCommas_append ht (splitCommas_comma _), List.append_nil,
      splitCommas_operandField (List.cons_ne_nil u us) (List.forall_mem_cons.mp h).2]
    rfl

/-! ## A line of a name and its operands -/

/-- The byte that an operand's value is, which R77 bounds by 255. -/
def operandByte (v : Nat) : Option Byte := if v ≤ 255 then some (BitVec.ofNat 8 v) else none

theorem operandByte_toNat (b : Byte) : operandByte b.toNat = some b := by
  rw [operandByte, if_pos (Nat.le_of_lt_succ b.isLt), BitVec.ofNat_toNat, BitVec.setWidth_eq]

theorem mapM_operandByte_toNat (ops : List Byte) : (ops.map BitVec.toNat).mapM operandByte = some ops := by
  induction ops with
  | nil => rfl
  | cons b ops ih => simp [operandByte_toNat, ih]

theorem length_of_mapM_operandByte {values : List Nat} {ops : List Byte} (h : values.mapM operandByte = some ops) :
    ops.length = values.length := by
  induction values generalizing ops with
  | nil => cases h; rfl
  | cons v values ih =>
    simp only [List.mapM_cons, Option.bind_eq_bind, Option.bind_eq_some_iff, Option.pure_def, Option.some.injEq] at h
    obtain ⟨b, -, bs, hbs, rfl⟩ := h
    simp [ih hbs]

theorem parseOperand_of_numeral {t : List Char} {v : Nat} (h : Numeral t v) :
    parseOperand (' ' :: t) = operandByte v := by
  simp only [parseOperand, trimBlanks_blank_token (token_of_numeral h), parseNumber_of_numeral h, operandByte]

theorem mapM_parseOperand {texts : List (List Char)} {values : List Nat} (h : List.Forall₂ Numeral texts values) :
    (texts.map (' ' :: ·)).mapM parseOperand = values.mapM operandByte := by
  induction h with
  | nil => rfl
  | cons ht _ ih => simp only [List.map_cons, List.mapM_cons, parseOperand_of_numeral ht, ih]

theorem parseOperands_operandField {texts : List (List Char)} {values : List Nat}
    (h : List.Forall₂ Numeral texts values) : parseOperands (operandField texts) = values.mapM operandByte := by
  obtain rfl | hne := eq_or_ne texts []
  · cases h
    rfl
  · have htokens := token_of_mem h
    obtain ⟨u, hu, hsuffix⟩ := endsWithToken_operandField hne htokens
    obtain ⟨c, hc⟩ := List.exists_mem_of_ne_nil u hu.nonempty
    have hmem := mem_trimBlanks (hsuffix.subset hc) (hu.not_blank hc)
    have hnonempty : (trimBlanks (operandField texts)).isEmpty = false :=
      List.isEmpty_eq_false_iff.mpr (List.ne_nil_of_mem hmem)
    rw [parseOperands, hnonempty, splitCommas_operandField hne htokens, mapM_parseOperand h]
    rfl

theorem parseLine_of_trimBlanks {line t : List Char} (h : trimBlanks (dropComment line) = t) (hne : t ≠ []) :
    parseLine line = (parseOperands (t.dropWhile fun c => !isBlank c)).bind
      (commandsOf (t.takeWhile fun c => !isBlank c)) := by
  rw [parseLine, h]
  cases t with
  | nil => exact absurd rfl hne
  | cons c t => cases hops : parseOperands ((c :: t).dropWhile fun c => !isBlank c) <;> simp only [hops] <;> rfl

theorem dropComment_append {t tail : List Char} (ht : ∀ c ∈ t, c ≠ ';') (htail : LineEnd tail) :
    ∃ blanks : List Char, blanks.all isBlank = true ∧ dropComment (t ++ tail) = t ++ blanks := by
  obtain ⟨blanks, comment, rfl, hblanks, hcomment⟩ := htail
  refine ⟨blanks, hblanks, ?_⟩
  have hb : ∀ c ∈ blanks, c ≠ ';' := by
    rintro c hc rfl
    exact absurd (List.all_eq_true.mp hblanks _ hc) (by decide)
  rw [dropComment, List.takeWhile_append_of_pos (by simpa using ht), List.takeWhile_append_of_pos (by simpa using hb)]
  obtain rfl | ⟨text, rfl⟩ := hcomment <;> simp

theorem operandField_eq (texts : List (List Char)) : operandField texts = [] ∨ ∃ t, operandField texts = ' ' :: t := by
  by_cases h : texts = []
  · exact .inl (if_pos h)
  · exact .inr ⟨_, if_neg h⟩

/-- The parser cuts the line where `Spells` joins it. -/
theorem parseLine_of_spells {line name : List Char} {values : List Nat} (hname : Token name)
    (h : Spells line name values) : parseLine line = (values.mapM operandByte).bind (commandsOf name) := by
  obtain ⟨texts, tail, htexts, htail, rfl⟩ := h
  change parseLine (name ++ operandField texts ++ tail) = _
  have htokens := token_of_mem htexts
  obtain ⟨blanks, hblanks, hdrop⟩ := dropComment_append
    (List.forall_mem_append.mpr ⟨fun _ => hname.ne_semicolon, operandField_ne_semicolon htokens⟩) htail
  have hend : EndsWithToken (name ++ operandField texts) := by
    obtain rfl | hne := eq_or_ne texts []
    · exact ⟨name, hname, by simp [operandField]⟩
    · obtain ⟨u, hu, hsuffix⟩ := endsWithToken_operandField hne htokens
      exact ⟨u, hu, hsuffix.trans (List.suffix_append _ _)⟩
  have htrim : trimBlanks (dropComment (name ++ operandField texts ++ tail)) = name ++ operandField texts :=
    hdrop ▸ trimBlanks_of_tokens (pre := []) rfl hblanks ⟨name, hname, List.prefix_append _ _⟩ hend
  have hnonblank : ∀ c ∈ name, (!isBlank c) = true := fun c hc => by simp [hname.not_blank hc]
  obtain ⟨htake, hkeep⟩ : (operandField texts).takeWhile (fun c => !isBlank c) = [] ∧
      (operandField texts).dropWhile (fun c => !isBlank c) = operandField texts := by
    obtain hnil | ⟨t, ht⟩ := operandField_eq texts
    · rw [hnil]; exact ⟨rfl, rfl⟩
    · rw [ht]; exact ⟨rfl, rfl⟩
  rw [parseLine_of_trimBlanks htrim (by simp [hname.nonempty]), List.takeWhile_append_of_pos hnonblank,
    List.dropWhile_append_of_pos hnonblank, htake, hkeep, List.append_nil, parseOperands_operandField htexts]

/-! ## The assembler (30_encoding.md R77, R78) -/

theorem assembleLine_eq {P : Params} {line : List Char} :
    assembleLine P line =
      (parseLine line).bind fun is => if is.all (wellFormed P) then some (is.map encode) else none := by
  unfold assembleLine
  cases parseLine line <;> rfl

theorem commandsOf_lineOperands (i : Instr) : commandsOf (mnemonicText i) (lineOperands i) = some [i] := by
  cases i <;> rfl

/-- A command takes as many operands as its line gives. -/
theorem commandsOf_mnemonicText_of_length_ne {i : Instr} {ops : List Byte} (h : ops.length ≠ (lineOperands i).length) :
    commandsOf (mnemonicText i) ops = none := by
  cases i with
  | nop | crcInit | crcRead | frameAbort | statusRead =>
    cases ops with
    | nil => exact absurd rfl h
    | cons => rfl
  | crcByte | frameStart | frameByte | wordRead =>
    match ops with
    | [] => rfl
    | [_] => exact absurd rfl h
    | _ :: _ :: _ => rfl

theorem commandsOf_pseudoOperands {P : Params} {p : Pseudo} (h : pseudoAllowed P p = true) :
    commandsOf (pseudoText p) (pseudoOperands p) = some (expand p) := by
  cases p with
  | decode n buf =>
    simp only [pseudoAllowed, Bool.and_eq_true, decide_eq_true_eq] at h
    exact if_pos h.1
  | checksum | feedWord | feedTriple | readWords => rfl

theorem wellFormed_expand {P : Params} {p : Pseudo} (h : pseudoAllowed P p = true) :
    ∀ i ∈ expand p, wellFormed P i = true := by
  cases p with
  | decode n buf =>
    simp only [pseudoAllowed, Bool.and_eq_true, decide_eq_true_eq] at h
    simpa [expand, or_imp, forall_and, wellFormed] using h.2
  | checksum | feedWord | feedTriple | readWords => simp [expand, or_imp, forall_and, wellFormed]

theorem parseLine_command {i : Instr} {line : List Char}
    (h : Spells line (mnemonicText i) ((lineOperands i).map BitVec.toNat)) : parseLine line = some [i] := by
  rw [parseLine_of_spells (token_mnemonicText i) h, mapM_operandByte_toNat, Option.bind_some, commandsOf_lineOperands]

theorem parseLine_pseudo {P : Params} {p : Pseudo} {line : List Char} (hp : pseudoAllowed P p = true)
    (h : Spells line (pseudoText p) ((pseudoOperands p).map BitVec.toNat)) : parseLine line = some (expand p) := by
  rw [parseLine_of_spells (token_pseudoText p) h, mapM_operandByte_toNat, Option.bind_some, commandsOf_pseudoOperands hp]

/-- Settles O9: a line is cut into its name and its operands' bytes, and the name says which commands they stand for. An
operand above 255 is no byte, a command's name refuses another number of operands, and the check of the operand refuses a
FRAME_START above MAX_WORDS. -/
theorem assemblerEncodesCommandAndPseudoLines : Obligations.AssemblerEncodesCommandAndPseudoLines := by
  refine ⟨fun P i line hwf h => ?_, fun P p line hp h => ?_, fun P n line hn h => ?_, fun P i line v hv h => ?_,
    fun P i line values hlen h => ?_⟩
  · simp [assembleLine_eq, parseLine_command h, hwf]
  · simpa [assembleLine_eq, parseLine_pseudo hp h] using wellFormed_expand hp
  · simp [assembleLine_eq, parseLine_command (i := .frameStart n) h, wellFormed, hn]
  · simp [assembleLine_eq, parseLine_of_spells (token_mnemonicText i) h, operandByte, Nat.not_le.mpr hv]
  · rw [assembleLine_eq, parseLine_of_spells (token_mnemonicText i) h]
    cases hops : values.mapM operandByte with
    | none => rfl
    | some ops =>
      rw [Option.bind_some, commandsOf_mnemonicText_of_length_ne (length_of_mapM_operandByte hops ▸ hlen)]
      rfl

end Sys2Proof.Machine

namespace Sys2Proof.Machine

/-! ## The CRC-8 as a linear map (40_crc.md R100, R109)

R109's T is `crc8Update 0x00`. One shift is linear over XOR and loses no byte, so T is linear and a bijection, and every fact
about the checksum of a few bytes is a fact about T. -/

/-- What a shift adds for the bit shifted out (R100). -/
def feedback (out : Bool) : Byte := if out then 0x31#8 else 0#8

theorem feedback_xor : ∀ a b : Bool, feedback (a ^^ b) = feedback a ^^^ feedback b := by decide

theorem crc8Shift_eq_xor_feedback (c : Byte) : crc8Shift c = (c <<< 1) ^^^ feedback (c.getLsbD 7) := by
  rw [crc8Shift, feedback]
  split
  case isTrue => rfl
  case isFalse => exact BitVec.xor_zero.symm

theorem crc8Shift_xor (x y : Byte) : crc8Shift (x ^^^ y) = crc8Shift x ^^^ crc8Shift y := by
  simp only [crc8Shift_eq_xor_feedback, BitVec.getLsbD_xor, BitVec.shiftLeft_xor_distrib, feedback_xor]
  ac_rfl

/-- The bit shifted out is put back as bit 0 of 0x31. -/
theorem crc8Shift_eq_zero_iff : ∀ {c : Byte}, crc8Shift c = 0#8 ↔ c = 0#8 := by decide

theorem crc8Shifts_xor (k : Nat) (x y : Byte) : crc8Shifts k (x ^^^ y) = crc8Shifts k x ^^^ crc8Shifts k y := by
  induction k generalizing x y with
  | zero => rfl
  | succ k ih => rw [crc8Shifts, crc8Shift_xor, ih, crc8Shifts, crc8Shifts]

theorem crc8Shifts_eq_zero_iff {k : Nat} {c : Byte} : crc8Shifts k c = 0#8 ↔ c = 0#8 := by
  induction k generalizing c with
  | zero => rfl
  | succ k ih => rw [crc8Shifts, ih, crc8Shift_eq_zero_iff]

/-- T is the eight shifts. -/
theorem crc8Update_zero (x : Byte) : crc8Update 0x00 x = crc8Shifts 8 x := congrArg (crc8Shifts 8) BitVec.zero_xor

theorem crc8Update_eq_zero_xor (c b : Byte) : crc8Update c b = crc8Update 0x00 (c ^^^ b) := (crc8Update_zero _).symm

theorem crc8Update_zero_xor (x y : Byte) : crc8Update 0x00 (x ^^^ y) = crc8Update 0x00 x ^^^ crc8Update 0x00 y := by
  simp only [crc8Update_zero, crc8Shifts_xor]

theorem crc8Update_zero_eq_zero_iff {x : Byte} : crc8Update 0x00 x = 0#8 ↔ x = 0#8 := by
  rw [crc8Update_zero, crc8Shifts_eq_zero_iff]

/-- A linear map with no kernel is injective, and the bytes are finite. -/
theorem crc8Update_zero_bijective : Function.Bijective (crc8Update 0x00) := by
  refine Finite.injective_iff_bijective.mp fun x y h => BitVec.xor_eq_zero_iff.mp ?_
  rw [← crc8Update_zero_eq_zero_iff, crc8Update_zero_xor, h, BitVec.xor_self]

/-- Settles O18: R109 (a) is the definition, and (b) and (c) hold of each of the eight shifts. -/
theorem updateIsLinearBijection : Obligations.UpdateIsLinearBijection :=
  ⟨crc8Update_eq_zero_xor, crc8Update_zero_xor, crc8Update_zero_bijective⟩

/-! ## The checksum of two bytes (40_crc.md R101, R109) -/

theorem checksum_two_eq (h l : Byte) : checksum [h, l] = crc8Update 0x00 (crc8Update 0x00 (0xFF ^^^ h) ^^^ l) := by
  rw [checksum_two, checksum_one, crc8Update_eq_zero_xor (crc8Update 0xFF h), crc8Update_eq_zero_xor 0xFF]

/-- An error adds the same pattern to the checksum of every word. -/
theorem checksum_two_xor (h l eh el : Byte) :
    checksum [h ^^^ eh, l ^^^ el] = checksum [h, l] ^^^ crc8Update 0x00 (crc8Update 0x00 eh ^^^ el) := by
  simp only [checksum_two_eq, ← crc8Update_zero_xor]
  congr 1
  rw [← BitVec.xor_assoc 0xFF h eh, crc8Update_zero_xor (0xFF ^^^ h)]
  ac_rfl

theorem checksum_zero_zero : checksum [0#8, 0#8] = 0x81#8 := by decide +kernel

theorem xor_bijective (a : Byte) : Function.Bijective (a ^^^ ·) :=
  Function.Involutive.bijective fun x => by rw [← BitVec.xor_assoc, BitVec.xor_self, BitVec.zero_xor]

/-- Settles O19. The second form is the first error pattern on the word 0x0000; each byte enters through XOR and T alone. -/
theorem checksumOfTwoBytesIsBijectiveInEach : Obligations.ChecksumOfTwoBytesIsBijectiveInEach := by
  refine ⟨checksum_two_eq, fun h l => ?_, checksum_zero_zero, fun h => ?_, fun l => ?_⟩
  · have hword := checksum_two_xor 0#8 0#8 h l
    rwa [BitVec.zero_xor, BitVec.zero_xor, checksum_zero_zero] at hword
  · simp only [checksum_two_eq]
    exact crc8Update_zero_bijective.comp (xor_bijective _)
  · simp only [checksum_two_eq, BitVec.xor_comm _ l]
    exact crc8Update_zero_bijective.comp ((xor_bijective l).comp (crc8Update_zero_bijective.comp (xor_bijective 0xFF)))

/-! ## Which errors pass the checksum (40_crc.md R107, R109) -/

theorem checksum_two_eq_iff_undetected (h l eh el : Byte) :
    checksum [h ^^^ eh, l ^^^ el] = checksum [h, l] ↔ crc8Update 0x00 eh = el := by
  rw [checksum_two_xor]
  calc checksum [h, l] ^^^ crc8Update 0x00 (crc8Update 0x00 eh ^^^ el) = checksum [h, l]
      ↔ crc8Update 0x00 (crc8Update 0x00 eh ^^^ el) = 0#8 := xor_left_eq_self_iff
    _ ↔ crc8Update 0x00 eh ^^^ el = 0#8 := crc8Update_zero_eq_zero_iff
    _ ↔ crc8Update 0x00 eh = el := BitVec.xor_eq_zero_iff

/-- How many bits of a byte an error flips. -/
def bitsSet (e : Byte) : Nat := ((List.range 8).filter fun k => e.getLsbD k).length

/-- The high byte of an undetected error determines the low one, so R109 (f) looks at 255 patterns. -/
theorem four_le_bitsSet_undetected : ∀ eh : Byte, eh ≠ 0 → 4 ≤ bitsSet eh + bitsSet (crc8Update 0x00 eh) := by
  decide +kernel

/-- Settles O20. Flipping bit 0 of the high byte and the bits of T 0x01 = 0x31 flips four. -/
theorem undetectedErrorsFlipFourBits : Obligations.UndetectedErrorsFlipFourBits := by
  refine ⟨checksum_two_eq_iff_undetected, ?_, 0x01, 0x31, by decide⟩
  rintro eh _ rfl hne
  refine four_le_bitsSet_undetected eh fun h0 => hne ⟨h0, ?_⟩
  exact crc8Update_zero_eq_zero_iff.mpr h0

/-- Settles O21: the checksum byte enters through XOR, and T takes only zero to zero. -/
theorem validTripleHasZeroResidue : Obligations.ValidTripleHasZeroResidue := by
  intro h l c
  have hthree : checksum [h, l, c] = crc8Update 0x00 (checksum [h, l] ^^^ c) := crc8Update_eq_zero_xor _ c
  rw [hthree]
  exact crc8Update_zero_eq_zero_iff.trans (BitVec.xor_eq_zero_iff.trans eq_comm)

theorem singleBit_not_undetected : ∀ k < 16,
    crc8Update 0x00 ((1#16 <<< k).extractLsb' 8 8) ≠ (1#16 <<< k).extractLsb' 0 8 := by decide

theorem xor_singleBit_ne (c : Byte) {k : Nat} (hk : k < 8) : c ^^^ (1#8 <<< k) ≠ c := by
  have hbit : ∀ j < 8, (1#8 <<< j) ≠ 0#8 := by decide
  exact mt xor_left_eq_self_iff.mp (hbit k hk)

/-- Settles O22: no single bit of a word is an undetected error, and FCRC is the checksum that the byte must equal. -/
theorem singleBitFlipIsDetected : Obligations.SingleBitFlipIsDetected := by
  constructor
  · intro w k hk
    simp only [BitVec.extractLsb'_xor, ne_eq, checksum_two_eq_iff_undetected]
    exact singleBit_not_undetected k hk
  · intro s k hk hp hq htracks
    have hne : checksum [s.block.hi, s.block.lo] ^^^ (1#8 <<< k) ≠ s.block.fcrc := by
      rw [htracks.afterLow hp hq]
      exact xor_singleBit_ne _ hk
    exact ⟨_, rfl, by simp [frameByte_mismatch hp hq hne]⟩

/-- Settles O17: the three values are evaluated. -/
theorem checksumReferenceValues : Obligations.ChecksumReferenceValues := by
  unfold Obligations.ChecksumReferenceValues
  decide +kernel

end Sys2Proof.Machine

namespace Sys2Proof.Machine

/-! ## The words of the checksum commands (30_encoding.md R72, R77) -/

/-- No other command shares the OP of a command without an operand. -/
theorem eq_of_opcode_eq {i j : Instr} (hi : takesOperand i = false) (h : opcode j = opcode i) : j = i := by
  cases i with
  | crcByte | frameStart | frameByte | wordRead => cases hi
  | nop | crcInit | crcRead | frameAbort | statusRead => cases j <;> simp [opcode] at h ⊢

theorem onlyWord_encode {i : Instr} (hi : takesOperand i = false) : OnlyWord i (encode i) := by
  have hwf (P : Params) : wellFormed P i = true := by
    cases i with
    | frameStart => cases hi
    | nop | crcInit | crcByte | crcRead | frameByte | frameAbort | statusRead | wordRead => rfl
  intro P w hop
  constructor
  · rintro rfl
    exact decode_encode (hwf P)
  · intro hne
    refine Option.eq_none_iff_forall_ne_some.mpr fun j hd => hne ?_
    obtain ⟨-, rfl⟩ := decode_eq_some_iff_encode.mp hd
    obtain ⟨hopj, -, -⟩ := fields_of_encode j
    obtain ⟨hopi, -, -⟩ := fields_of_encode i
    rw [eq_of_opcode_eq hi (hopj.symm.trans (hop.trans hopi))]

/-- OP and the operand share no bit, so R77's OR is a sum. -/
theorem encode_eq_add (i : Instr) : encode i = ((opcode i).setWidth 16 <<< 12) + (operand i).setWidth 16 := by
  refine (BitVec.add_eq_or_of_and_eq_zero _ _ ?_).symm
  ext j hj
  simp only [BitVec.getElem_and, BitVec.getElem_shiftLeft, BitVec.getElem_setWidth, BitVec.getElem_zero]
  grind

theorem encode_crcByte (b : Byte) : encode (.crcByte b) = 0x2000 + b.setWidth 16 := encode_eq_add (.crcByte b)

/-! ## The checksum commands, one rule each (40_crc.md R103 to R105) -/

/-- Settles O27: CRC_INIT has no operand, and what it writes depends on nothing. -/
theorem crcInitWritesFF : Obligations.CrcInitWritesFF := by
  refine ⟨onlyWord_encode (i := .crcInit) rfl, fun _ => rfl, fun s rest hp => ?_, fun s t h => ?_⟩
  · exact step_encode (i := .crcInit) hp rfl
  · cases h; rfl

/-- A zero byte leaves only the two fixed points of T. -/
theorem crc8Update_zero_byte_eq_self_iff : ∀ c : Byte, crc8Update c 0x00 = c ↔ c = 0x00 ∨ c = 0xEF := by decide

/-- Settles O28: the word is the encoding of CRC_BYTE b, and T has two fixed points. -/
theorem crcByteUpdatesCrc : Obligations.CrcByteUpdatesCrc := by
  refine ⟨fun P b => ?_, fun _ _ => rfl, fun s b rest hp => ?_, fun c => ⟨?_, crc8Update_zero_byte_eq_self_iff c⟩,
    by decide⟩
  · rw [← encode_crcByte]
    exact decode_encode rfl
  · rw [← encode_crcByte] at hp
    exact step_encode hp rfl
  · rw [crc8Update, crc8Update, BitVec.xor_comm]

theorem step_crcRead {s : State} {rest : List Input} (hp : s.port = .command 0x3000 :: rest) :
    step s = .next (respond (zext16 s.block.crc) (taken s rest)) := step_encode (i := .crcRead) hp rfl

/-- Settles O29: CRC_READ has no operand, and it is a read. -/
theorem crcReadRespondsCrc : Obligations.CrcReadRespondsCrc :=
  ⟨onlyWord_encode (i := .crcRead) rfl, fun _ => rfl, fun _ _ hp => step_crcRead hp,
    fun _ _ h => exec_read_idempotent rfl h, fun _ => ⟨_, rfl, rfl⟩⟩

/-! ## The two engines share no state (40_crc.md R108) -/

theorem drainByte_withCrc (c : Byte) (k : Block) :
    drainByte { k with crc := c } = { drainByte k with crc := c } := by
  simp only [drainByte]
  split <;> rfl

theorem frameByte_withCrc (b c : Byte) (k : Block) :
    frameByte b { k with crc := c } = { frameByte b k with crc := c } := by
  obtain ⟨h, hk⟩ | ⟨hp, hw, hk⟩ | ⟨hp, hq, hk⟩ | ⟨hp, hq, hk⟩ | ⟨hp, hq, hb, hk⟩ | ⟨hp, hq, hb, hk⟩ :=
    frameByte_cases b k <;> rw [hk]
  · exact frameByte_unexpected h
  · exact (frameByte_drain (k := { k with crc := c }) hp hw).trans (drainByte_withCrc c k)
  · exact frameByte_high hp hq
  · exact frameByte_low hp hq
  · exact frameByte_match hp hq hb
  · exact frameByte_mismatch hp hq hb

/-- A command that is none of the checksum engine's neither reads nor writes CRC. -/
theorem exec_withCrc {i : Instr} {s t : State} (hi : isCrcCommand i = false) (h : exec i s = .next t) (c : Byte) :
    t.block.crc = s.block.crc ∧
      exec i { s with block := { s.block with crc := c } } = .next { t with block := { t.block with crc := c } } := by
  cases i with
  | crcInit | crcByte | crcRead => cases hi
  | frameStart n =>
    by_cases hn : n.toNat ≤ s.params.maxWords
    · cases (execFrameStart_of_le hn).symm.trans h
      exact ⟨rfl, execFrameStart_of_le hn⟩
    · cases (execFrameStart_of_not_le hn).symm.trans h
      exact ⟨rfl, execFrameStart_of_not_le hn⟩
  | frameByte b =>
    cases h
    obtain ⟨hcrc, -⟩ := frameByte_frame b s.block
    refine ⟨hcrc, ?_⟩
    simp only [exec, execFrameByte, frameByte_withCrc]
  | nop | frameAbort | statusRead | wordRead => cases h; exact ⟨rfl, rfl⟩

/-- Settles O25: each engine's commands are record updates of its own fields, and an illegal word is neither's. -/
theorem enginesAreIndependent : Obligations.EnginesAreIndependent := by
  refine ⟨fun i s t f hi h => ?_, fun i s t c hi h => exec_withCrc hi h c, fun s w rest hp hd => ?_⟩
  · cases i with
    | crcInit | crcByte | crcRead => cases h; exact ⟨rfl, rfl⟩
    | nop | frameStart | frameByte | frameAbort | statusRead | wordRead => cases hi
  · exact ⟨_, step_illegal hp hd, rfl⟩

end Sys2Proof.Machine

namespace Sys2Proof.Machine

/-! ## A stream of checksum commands (40_crc.md R106)

CRC moves by the checksum commands of a stream alone, so a stream leaves in CRC the fold of `crcAfter` over them. -/

/-- The value a command leaves in CRC (R103 to R105, R108). -/
def crcAfter (c : Byte) (i : Instr) : Byte :=
  match i with
  | .crcInit => 0xFF
  | .crcByte b => crc8Update c b
  | .crcRead | .nop | .frameStart _ | .frameByte _ | .frameAbort | .statusRead | .wordRead _ => c

theorem crcAfter_of_not_crcCommand {i : Instr} (hi : isCrcCommand i = false) (c : Byte) : crcAfter c i = c := by
  cases i with
  | crcInit | crcByte | crcRead => cases hi
  | nop | frameStart | frameByte | frameAbort | statusRead | wordRead => rfl

theorem exec_crc {i : Instr} {s t : State} (h : exec i s = .next t) : t.block.crc = crcAfter s.block.crc i := by
  cases hi : isCrcCommand i with
  | false =>
    rw [crcAfter_of_not_crcCommand hi]
    exact (exec_withCrc hi h 0).1
  | true =>
    cases i with
    | crcInit | crcByte | crcRead => cases h; rfl
    | nop | frameStart | frameByte | frameAbort | statusRead | wordRead => cases hi

theorem foldl_crcAfter_crcBytes (bytes : List Byte) : (bytes.map .crcByte).foldl crcAfter 0xFF = checksum bytes := by
  rw [List.foldl_map]
  rfl

/-- A step on a command word moves CRC by the checksum commands among its one input. -/
theorem step_crc {s t : State} {x : Input} {rest : List Input} (hp : s.port = x :: rest) (hx : x ≠ .reset)
    (h : step s = .next t) :
    t.block.crc = (streamOf s.params isCrcCommand [x]).foldl crcAfter s.block.crc := by
  obtain ⟨hp', -⟩ | ⟨_, hp', -⟩ | ⟨w, _, i, hp', hd, hexec⟩ | ⟨w, _, hp', hd, rfl⟩ := step_cases h
    <;> cases hp.symm.trans hp'
  case inr.inl => exact absurd rfl hx
  case inr.inr.inl =>
    rw [exec_crc hexec]
    cases hi : isCrcCommand i with
    | false => simp [streamOf, inputInstr, hd, hi, crcAfter_of_not_crcCommand hi]
    | true => simp [streamOf, inputInstr, hd, hi]
  case inr.inr.inr => simp [streamOf, inputInstr, hd]

theorem streamOf_cons (P : Params) (keep : Instr → Bool) (x : Input) (xs : List Input) :
    streamOf P keep (x :: xs) = streamOf P keep [x] ++ streamOf P keep xs := by
  rw [streamOf, ← List.singleton_append, List.filterMap_append, List.filter_append]
  rfl

/-- A CRC_READ after a stream without Reset responds what the checksum commands of the stream leave in CRC. -/
theorem run_crcRead_responds {s : State} {inputs rest : List Input} (hp : s.port = inputs ++ .command 0x3000 :: rest)
    (hreset : noReset inputs = true) :
    ∃ t, Host.Core.run core (inputs.length + 1) s = .next t ∧ t.port = rest ∧
      t.resp = some (zext16 ((streamOf s.params isCrcCommand inputs).foldl crcAfter s.block.crc)) := by
  induction inputs generalizing s with
  | nil => exact ⟨_, run_succ_of_step (M := core) (step_crcRead hp) 0, rfl, rfl⟩
  | cons x xs ih =>
    simp only [noReset, List.all_cons, Bool.and_eq_true, decide_eq_true_eq] at hreset
    obtain ⟨hx, hxs⟩ := hreset
    obtain ⟨u, hu⟩ := everyStepAnswersNext s
    obtain ⟨t, hrun, hport, hresp⟩ := ih (step_port hp hu) hxs
    refine ⟨t, (run_succ_of_step (M := core) hu _).trans hrun, hport, ?_⟩
    rw [hresp, step_keeps_params hu, step_crc hp hx hu, streamOf_cons _ _ x xs, List.foldl_append]

/-- Settles O24: CRC_INIT starts the fold at 0xFF, where it is the checksum of the bytes. -/
theorem checksumStreamRespondsChecksum : Obligations.ChecksumStreamRespondsChecksum := by
  intro s inputs rest bytes hp hreset hstream
  obtain ⟨t, hrun, hport, hresp⟩ := run_crcRead_responds hp hreset
  have hcrc : (streamOf s.params isCrcCommand inputs).foldl crcAfter s.block.crc = checksum bytes := by
    obtain hinit | ⟨hff, hbytes⟩ := hstream
    · rw [hinit, List.foldl_cons]
      exact foldl_crcAfter_crcBytes bytes
    · rw [hff, hbytes, foldl_crcAfter_crcBytes]
  exact ⟨t, hrun, hport, hcrc ▸ hresp⟩

end Sys2Proof.Machine

namespace Sys2Proof.Machine

/-! ## The source's `decode_words`, group by group (41_frame.md R120)

`decodeFrom` walks from the first group on; the frame engine completes its last triple. So these laws say what one group
more at the end does to a result. -/

/-- The word of group i of a buffer, if its checksum byte is the right one. -/
def decodeGroup (buf : List Byte) (i : Nat) : Option Word :=
  if checksum [buf.getD (3 * i) 0, buf.getD (3 * i + 1) 0] = buf.getD (3 * i + 2) 0 then
    some (joinBytes (buf.getD (3 * i) 0) (buf.getD (3 * i + 1) 0))
  else none

section DecodeGroup

variable {buf : List Byte} {i left n : Nat} {words : List Word}

theorem decodeFrom_of_valid {w : Word} (h : decodeGroup buf i = some w) :
    decodeFrom buf i (left + 1) words = decodeFrom buf (i + 1) left (words ++ [w]) := by
  obtain ⟨hsum, hw⟩ := Option.ite_none_right_eq_some.mp h
  cases hw
  rw [decodeFrom, if_neg (not_not.mpr hsum)]

theorem decodeFrom_of_invalid (h : decodeGroup buf i = none) : decodeFrom buf i (left + 1) words = .err i := by
  have hsum : checksum [buf.getD (3 * i) 0, buf.getD (3 * i + 1) 0] ≠ buf.getD (3 * i + 2) 0 := by
    simpa [decodeGroup] using h
  rw [decodeFrom, if_pos hsum]

theorem decodeFrom_succ_of_ok {ws : List Word} (h : decodeFrom buf i left words = .ok ws) :
    decodeFrom buf i (left + 1) words = decodeFrom buf (i + left) 1 ws := by
  induction left generalizing i words with
  | zero => cases h; rfl
  | succ left ih =>
    cases hg : decodeGroup buf i with
    | none => rw [decodeFrom_of_invalid hg] at h; cases h
    | some w =>
      rw [decodeFrom_of_valid hg] at h ⊢
      rw [ih h, Nat.add_right_comm, Nat.add_assoc]

theorem decodeFrom_succ_of_err {j : Nat} (h : decodeFrom buf i left words = .err j) :
    decodeFrom buf i (left + 1) words = .err j := by
  induction left generalizing i words with
  | zero => cases h
  | succ left ih =>
    cases hg : decodeGroup buf i with
    | none => rw [decodeFrom_of_invalid hg] at h ⊢; exact h
    | some w => rw [decodeFrom_of_valid hg] at h ⊢; exact ih h

theorem decodeFrom_err_lt {j : Nat} (h : decodeFrom buf i left words = .err j) : j < i + left := by
  induction left generalizing i words with
  | zero => cases h
  | succ left ih =>
    cases hg : decodeGroup buf i with
    | none => rw [decodeFrom_of_invalid hg] at h; cases h; omega
    | some w =>
      rw [decodeFrom_of_valid hg] at h
      have hlt := ih h
      omega

/-- A buffer is looked at up to its last group only. -/
theorem decodeFrom_take {m : Nat} (hm : 3 * (i + left) ≤ m) :
    decodeFrom (buf.take m) i left words = decodeFrom buf i left words := by
  induction left generalizing i words with
  | zero => rfl
  | succ left ih =>
    have hgroup : decodeGroup (buf.take m) i = decodeGroup buf i := by
      have hbyte : ∀ j < 3 * (i + 1), (buf.take m).getD j 0 = buf.getD j 0 := fun j hj => by
        rw [List.getD_eq_getElem?_getD, List.getElem?_take_of_lt (by omega), ← List.getD_eq_getElem?_getD]
      rw [decodeGroup, hbyte _ (by omega), hbyte _ (by omega), hbyte _ (by omega), decodeGroup]
    cases hg : decodeGroup buf i with
    | none => rw [decodeFrom_of_invalid hg, decodeFrom_of_invalid (hgroup.trans hg)]
    | some w =>
      rw [decodeFrom_of_valid hg, decodeFrom_of_valid (hgroup.trans hg)]
      exact ih (by omega)

theorem decodeWords_take {m : Nat} (hm : 3 * n ≤ m) : decodeWords (buf.take m) n = decodeWords buf n :=
  decodeFrom_take (by omega)

theorem decodeWords_succ_of_valid {w : Word} (h : decodeWords buf n = .ok words) (hg : decodeGroup buf n = some w) :
    decodeWords buf (n + 1) = .ok (words ++ [w]) := by
  rw [decodeWords, decodeFrom_succ_of_ok h, Nat.zero_add, decodeFrom_of_valid hg, decodeFrom]

theorem decodeWords_succ_of_invalid (h : decodeWords buf n = .ok words) (hg : decodeGroup buf n = none) :
    decodeWords buf (n + 1) = .err n := by
  rw [decodeWords, decodeFrom_succ_of_ok h, Nat.zero_add, decodeFrom_of_invalid hg]

theorem decodeWords_succ_of_err {j : Nat} (h : decodeWords buf n = .err j) : decodeWords buf (n + 1) = .err j :=
  decodeFrom_succ_of_err h

/-- The first mismatch is at a group of the buffer. -/
theorem decodeWords_err_lt {j : Nat} (h : decodeWords buf n = .err j) : j < n := by
  simpa using decodeFrom_err_lt h

/-- A group whose three bytes are known. -/
theorem decodeGroup_of_bytes {hi lo c : Byte} (hhi : buf[3 * i]? = some hi) (hlo : buf[3 * i + 1]? = some lo)
    (hc : buf[3 * i + 2]? = some c) :
    decodeGroup buf i = if checksum [hi, lo] = c then some (joinBytes hi lo) else none := by
  simp only [decodeGroup, List.getD_eq_getElem?_getD, hhi, hlo, hc, Option.getD_some]

end DecodeGroup

/-! ## How many bytes of its frame the engine has taken (10_state.md R24, R25, 41_frame.md R130) -/

/-- WIDX triples and POS bytes. -/
def bytesTaken (k : Block) : Nat := 3 * k.widx.toNat + (posCode k.pos).toNat

theorem bytesTaken_eq_of_high {k : Block} (hq : k.pos = .high) : bytesTaken k = 3 * k.widx.toNat := by
  rw [bytesTaken, hq]; rfl

theorem bytesTaken_eq_of_low {k : Block} (hq : k.pos = .low) : bytesTaken k = 3 * k.widx.toNat + 1 := by
  rw [bytesTaken, hq]; rfl

theorem bytesTaken_eq_of_check {k : Block} (hq : k.pos = .check) : bytesTaken k = 3 * k.widx.toNat + 2 := by
  rw [bytesTaken, hq]; rfl

/-- A triple not yet due keeps WIDX from wrapping (log entry 8). -/
theorem widx_succ_toNat {k : Block} (hw : k.widx < k.n) : (k.widx + 1).toNat = k.widx.toNat + 1 := by
  bv_omega

theorem bytesTaken_nextTriple {k : Block} (hq : k.pos = .check) (hw : k.widx < k.n) :
    bytesTaken (nextTriple k) = bytesTaken k + 1 := by
  rw [bytesTaken_eq_of_high rfl, nextTriple_widx, widx_succ_toNat hw, bytesTaken_eq_of_check hq, Nat.mul_succ]

theorem bytesTaken_nextPos {k : Block} (hq : k.pos ≠ .check) :
    bytesTaken { k with pos := nextPos k.pos } = bytesTaken k + 1 := by
  cases hq' : k.pos with
  | high => rw [bytesTaken_eq_of_high hq']; rfl
  | low => rw [bytesTaken_eq_of_low hq']; rfl
  | check => exact absurd hq' hq

/-- A byte that is expected counts once, whatever its value. -/
theorem bytesTaken_frameByte {k : Block} (h : ByteExpected k) (hw : k.widx < k.n) (b : Byte) :
    bytesTaken (frameByte b k) = bytesTaken k + 1 := by
  obtain ⟨hne, -⟩ | ⟨-, -, hk⟩ | ⟨-, hq, hk⟩ | ⟨-, hq, hk⟩ | ⟨-, hq, -, hk⟩ | ⟨-, hq, -, hk⟩ := frameByte_cases b k
  · exact absurd h hne
  · obtain ⟨hq, hk'⟩ | ⟨hq, hk'⟩ := drainByte_cases k <;> rw [hk, hk']
    · exact bytesTaken_nextTriple hq hw
    · exact bytesTaken_nextPos hq
  · rw [hk, bytesTaken_eq_of_high hq]; rfl
  · rw [hk, bytesTaken_eq_of_low hq]; rfl
  · rw [hk]; exact bytesTaken_nextTriple hq hw
  · rw [hk]; exact bytesTaken_nextTriple hq hw

/-! ## The frame engine agrees with `decode_words` (41_frame.md R120, R123, R127) -/

section ReceivedAfter

variable {s : State} {w : Word} {rest : List Input} {received : List Byte}

theorem receivedAfter_reset (hp : s.port = .reset :: rest) : receivedAfter s received = [] := by
  simp only [receivedAfter, hp]

theorem receivedAfter_start {n : Byte} (hp : s.port = .command w :: rest)
    (hd : decode s.params w = some (.frameStart n)) : receivedAfter s received = [] := by
  simp only [receivedAfter, hp, hd]

theorem receivedAfter_abort (hp : s.port = .command w :: rest) (hd : decode s.params w = some .frameAbort) :
    receivedAfter s received = [] := by
  simp only [receivedAfter, hp, hd]

theorem receivedAfter_byte {b : Byte} (hp : s.port = .command w :: rest)
    (hd : decode s.params w = some (.frameByte b)) :
    receivedAfter s received = if ByteExpected s.block then received ++ [b] else received := by
  simp only [receivedAfter, hp, hd]

/-- An input that does not reach the frame engine leaves the record alone. -/
theorem receivedAfter_other (hq : nextInputIs reachesFrame s = false) : receivedAfter s received = received := by
  unfold receivedAfter
  split
  · rfl
  case h_2 hp => simp [nextInputIs, hp, reachesFrame] at hq
  case h_3 hp =>
    split
    case h_1 hd | h_2 hd | h_3 hd => simp [nextInputIs, hp, reachesFrame, hd, isFrameCommand] at hq
    · rfl

end ReceivedAfter

/-- In IDLE there is no frame to agree on. -/
theorem frameMatches_of_idle {k : Block} (hp : k.phase = .idle) (received : List Byte) : FrameMatches k received := by
  constructor <;> simp [hp]

/-- A frame just opened has taken no byte and no triple. -/
theorem frameMatches_openFrame (n : Byte) (k : Block) : FrameMatches (openFrame n k) [] where
  count _ := rfl
  valid _ := rfl
  mismatch hp := by obtain ⟨-, hp'⟩ | ⟨-, hp'⟩ := openFrame_phase_cases n k <;> exact nomatch hp'.symm.trans hp
  latchHigh _ hq := absurd rfl hq
  latchLow _ hq := nomatch hq

/-- A frame between two triples agrees when its complete triples do. -/
theorem frameMatches_of_high {k : Block} {received : List Byte} (hp : k.phase = .run ∨ k.phase = .done)
    (hq : k.pos = .high) (hcount : received.length = bytesTaken k)
    (hvalid : decodeWords received k.widx.toNat = .ok (k.wbuf.take k.widx.toNat)) : FrameMatches k received where
  count _ := hcount
  valid _ := (decodeWords_take le_rfl).trans hvalid
  mismatch hp' := by simp [hp'] at hp
  latchHigh _ hq' := absurd hq hq'
  latchLow _ hq' := nomatch hq.symm.trans hq'

/-- In ERR the latches are dead. -/
theorem frameMatches_of_err {k : Block} {received : List Byte} (hp : k.phase = .err)
    (hcount : received.length = bytesTaken k)
    (hmismatch : decodeWords received k.widx.toNat = .err k.eidx.toNat) : FrameMatches k received where
  count _ := hcount
  valid hp' := by simp [hp] at hp'
  mismatch _ := (decodeWords_take le_rfl).trans hmismatch
  latchHigh hp' := nomatch hp.symm.trans hp'
  latchLow hp' := nomatch hp.symm.trans hp'

/-- A byte of a list stays where it is when more are appended. -/
theorem getElem?_append_of_eq_some {l : List Byte} {i : Nat} {a : Byte} (h : l[i]? = some a) (l' : List Byte) :
    (l ++ l')[i]? = some a := by
  obtain ⟨hi, -⟩ := List.getElem?_eq_some_iff.mp h
  rw [List.getElem?_append_left hi, h]

section FrameMatchesOps

variable {k : Block} {received : List Byte} (h : FrameMatches k received)
include h

/-- One more byte does not change what the complete triples decode to. -/
theorem FrameMatches.decodeWords_append (hp : k.phase ≠ .idle) (b : Byte) :
    decodeWords (received ++ [b]) k.widx.toNat = decodeWords (received.take (3 * k.widx.toNat)) k.widx.toNat := by
  have hle : 3 * k.widx.toNat ≤ received.length := by
    rw [h.count hp]
    exact Nat.le_add_right _ _
  rw [← decodeWords_take le_rfl, List.take_append_of_le_length hle]

/-- The byte just received is the last one. -/
theorem FrameMatches.getElem?_append (hp : k.phase ≠ .idle) (b : Byte) :
    (received ++ [b])[bytesTaken k]? = some b := by
  have hlen : received.length = bytesTaken k := h.count hp
  rw [← hlen, List.getElem?_concat_length]

/-- The triple that a checksum byte completes is valid exactly when the byte is FCRC (10_state.md R27). -/
theorem FrameMatches.decodeGroup_append (htracks : FcrcTracks k) (hp : k.phase = .run) (hq : k.pos = .check) (b : Byte) :
    decodeGroup (received ++ [b]) k.widx.toNat = if k.fcrc = b then some (joinBytes k.hi k.lo) else none := by
  have hhi := getElem?_append_of_eq_some (h.latchHigh hp (by simp [hq])) [b]
  have hlo := getElem?_append_of_eq_some (h.latchLow hp hq) [b]
  have hc := h.getElem?_append (by simp [hp]) b
  rw [bytesTaken_eq_of_check hq] at hc
  rw [decodeGroup_of_bytes hhi hlo hc, htracks.afterLow hp hq]

/-- A byte at POS 0 or POS 1 in RUN completes no triple. -/
theorem FrameMatches.latch {b hi lo fcrc : Byte} {p : Pos} (hp : k.phase = .run)
    (hcount : (received ++ [b]).length = bytesTaken { k with pos := p })
    (hhi : p ≠ .high → (received ++ [b])[3 * k.widx.toNat]? = some hi)
    (hlo : p = .check → (received ++ [b])[3 * k.widx.toNat + 1]? = some lo) :
    FrameMatches { k with hi := hi, lo := lo, fcrc := fcrc, pos := p } (received ++ [b]) where
  count _ := hcount
  valid _ := (decodeWords_take le_rfl).trans ((h.decodeWords_append (by simp [hp]) b).trans (h.valid (.inl hp)))
  mismatch hp' := nomatch hp.symm.trans hp'
  latchHigh _ := hhi
  latchLow _ := hlo

/-- Draining goes on past the first mismatch, which stays the result. -/
theorem FrameMatches.drainByte (hp : k.phase = .err) (hw : k.widx < k.n) (b : Byte)
    (hcount : (received ++ [b]).length = bytesTaken (drainByte k)) :
    FrameMatches (drainByte k) (received ++ [b]) := by
  have herr := (h.decodeWords_append (by simp [hp]) b).trans (h.mismatch hp)
  obtain ⟨-, hk⟩ | ⟨-, hk⟩ := drainByte_cases k <;> rw [hk] at hcount ⊢
  · refine frameMatches_of_err hp hcount ?_
    rw [nextTriple_widx, widx_succ_toNat hw]
    exact decodeWords_succ_of_err herr
  · exact frameMatches_of_err hp hcount herr

theorem FrameMatches.acceptTriple (htracks : FcrcTracks k) (hp : k.phase = .run) (hq : k.pos = .check)
    (hw : k.widx < k.n) (hbuf : k.widx.toNat < k.wbuf.length)
    (hcount : (received ++ [k.fcrc]).length = bytesTaken (acceptTriple k)) :
    FrameMatches (acceptTriple k) (received ++ [k.fcrc]) := by
  have hphase : (Machine.acceptTriple k).phase = .run ∨ (Machine.acceptTriple k).phase = .done :=
    (acceptTriple_phase_cases hp).symm.imp And.right And.right
  refine frameMatches_of_high hphase rfl hcount ?_
  have hwords := (h.decodeWords_append (by simp [hp]) k.fcrc).trans (h.valid (.inl hp))
  have hgroup := (h.decodeGroup_append htracks hp hq k.fcrc).trans (if_pos rfl)
  have hstored : (k.wbuf.set (storeIndex k) (joinBytes k.hi k.lo)).take (k.widx.toNat + 1) =
      k.wbuf.take k.widx.toNat ++ [joinBytes k.hi k.lo] := by
    rw [storeIndex, wordIndex, List.take_add_one, List.take_set_of_le le_rfl, List.getElem?_set_self hbuf]
    rfl
  rw [acceptTriple_widx, acceptTriple_wbuf, widx_succ_toNat hw, hstored]
  exact decodeWords_succ_of_valid hwords hgroup

theorem FrameMatches.rejectTriple (htracks : FcrcTracks k) (hp : k.phase = .run) (hq : k.pos = .check)
    (hw : k.widx < k.n) {b : Byte} (hb : b ≠ k.fcrc)
    (hcount : (received ++ [b]).length = bytesTaken (rejectTriple k)) :
    FrameMatches (rejectTriple k) (received ++ [b]) := by
  refine frameMatches_of_err rfl hcount ?_
  have hwords := (h.decodeWords_append (by simp [hp]) b).trans (h.valid (.inl hp))
  have hgroup := (h.decodeGroup_append htracks hp hq b).trans (if_neg hb.symm)
  rw [rejectTriple_widx, rejectTriple_eidx, widx_succ_toNat hw]
  exact decodeWords_succ_of_invalid hwords hgroup

/-- A byte that is expected joins the record, and each case of R123 keeps the agreement. -/
theorem FrameMatches.frameByte (htracks : FcrcTracks k) (hw : ByteExpected k → k.widx < k.n)
    (hbuf : k.n.toNat ≤ k.wbuf.length) (b : Byte) :
    FrameMatches (frameByte b k) (if ByteExpected k then received ++ [b] else received) := by
  by_cases hexp : ByteExpected k
  case neg =>
    rw [if_neg hexp, frameByte_unexpected hexp]
    exact { h with }
  rw [if_pos hexp]
  have hlt := hw hexp
  have hidle : k.phase ≠ .idle := by rintro hp; simp [ByteExpected, hp] at hexp
  have hbyte := h.getElem?_append hidle b
  have hcount : (received ++ [b]).length = bytesTaken (Machine.frameByte b k) := by
    rw [bytesTaken_frameByte hexp hlt, List.length_append, h.count hidle]
    rfl
  obtain ⟨hne, -⟩ | ⟨hp, -, hk⟩ | ⟨hp, hq, hk⟩ | ⟨hp, hq, hk⟩ | ⟨hp, hq, rfl, hk⟩ | ⟨hp, hq, hb, hk⟩ :=
    frameByte_cases b k
  · exact absurd hexp hne
  all_goals rw [hk] at hcount ⊢
  · exact h.drainByte hp hlt b hcount
  · rw [bytesTaken_eq_of_high hq] at hbyte
    exact h.latch hp hcount (fun _ => hbyte) nofun
  · rw [bytesTaken_eq_of_low hq] at hbyte
    have hhi := getElem?_append_of_eq_some (h.latchHigh hp (by simp [hq])) [b]
    exact h.latch hp hcount (fun _ => hhi) (fun _ => hbyte)
  · exact h.acceptTriple htracks hp hq hlt (Nat.lt_of_lt_of_le hlt hbuf) hcount
  · exact h.rejectTriple htracks hp hq hlt hb hcount

end FrameMatchesOps

/-- R34 leaves a triple due whenever a byte is expected. -/
theorem Invariant.widx_lt_of_byteExpected {s : State} (h : Invariant s) (hexp : ByteExpected s.block) :
    s.block.widx < s.block.n := by
  obtain hp | ⟨-, hne⟩ := hexp
  · exact h.i5 hp
  · exact BitVec.lt_of_le_ne h.i2 hne

theorem FrameStep.keeps_frameMatches {s : State} {k : Block} {received : List Byte} (hk : FrameStep s k)
    (hinv : Invariant s) (htracks : FcrcTracks s.block) (h : FrameMatches s.block received) :
    FrameMatches k (receivedAfter s received) := by
  cases hk with
  | reset hp => rw [receivedAfter_reset hp]; exact frameMatches_of_idle rfl _
  | start hp hd => rw [receivedAfter_start hp hd]; exact frameMatches_openFrame _ _
  | byte hp hd =>
    have hbuf : s.block.n.toNat ≤ s.block.wbuf.length := by
      rw [(Memory.wf_iff _ _).mp hinv.buffer]
      exact hinv.i1
    rw [receivedAfter_byte hp hd]
    exact h.frameByte htracks hinv.widx_lt_of_byteExpected hbuf _
  | abort hp hd => rw [receivedAfter_abort hp hd]; exact frameMatches_of_idle rfl _
  | other k hq => rw [receivedAfter_other hq]; exact { h with }

/-- Settles O50: at reset no frame is open, and every effect of a step on the frame engine keeps the agreement. -/
theorem stepKeepsAgreementWithDecodeWords : Obligations.StepKeepsAgreementWithDecodeWords :=
  ⟨fun _ => frameMatches_of_idle rfl [], fun _ _ _ hinv htracks h hs =>
    (step_frameStep hs).keeps_frameMatches hinv htracks h⟩

end Sys2Proof.Machine

namespace Sys2Proof.Machine

/-! ## What a stream of inputs does to the frame engine (40_crc.md R108, 41_frame.md R127)

The frame engine moves by the frame commands of a stream alone, so a stream without Reset leaves in its fields the fold of
`frameAfter` over them. -/

/-- The block a command leaves, as far as the frame engine's fields go (R122 to R124, R108). -/
def frameAfter (k : Block) (i : Instr) : Block :=
  match i with
  | .frameStart n => openFrame n k
  | .frameByte b => frameByte b k
  | .frameAbort => closeFrame k
  | .nop | .crcInit | .crcByte _ | .crcRead | .statusRead | .wordRead _ => k

/-- Two blocks with the same frame engine: they differ at most in CRC, CMDERR and RDATA. -/
def SameFrame (k l : Block) : Prop := ∃ c, k = withFrameOf c l

theorem SameFrame.refl (k : Block) : SameFrame k k := ⟨k, rfl⟩

theorem SameFrame.trans {k l m : Block} : SameFrame k l → SameFrame l m → SameFrame k m := by
  rintro ⟨c, rfl⟩ ⟨d, rfl⟩
  exact ⟨c, rfl⟩

section WithFrameOf

variable (c k : Block)

@[simp] theorem withFrameOf_wbuf : (withFrameOf c k).wbuf = k.wbuf := rfl

theorem drainByte_withFrameOf : drainByte (withFrameOf c k) = withFrameOf c (drainByte k) := by
  obtain ⟨hq, hk⟩ | ⟨hq, hk⟩ := drainByte_cases k <;> rw [hk]
  · exact if_pos hq
  · exact if_neg hq

theorem frameByte_withFrameOf (b : Byte) : frameByte b (withFrameOf c k) = withFrameOf c (frameByte b k) := by
  obtain ⟨h, hk⟩ | ⟨hp, hw, hk⟩ | ⟨hp, hq, hk⟩ | ⟨hp, hq, hk⟩ | ⟨hp, hq, hb, hk⟩ | ⟨hp, hq, hb, hk⟩ :=
    frameByte_cases b k <;> rw [hk]
  · exact frameByte_unexpected (k := withFrameOf c k) h
  · exact (frameByte_drain (k := withFrameOf c k) hp hw).trans (drainByte_withFrameOf c k)
  · exact frameByte_high (k := withFrameOf c k) hp hq
  · exact frameByte_low (k := withFrameOf c k) hp hq
  · exact frameByte_match (k := withFrameOf c k) hp hq hb
  · exact frameByte_mismatch (k := withFrameOf c k) hp hq hb

end WithFrameOf

/-- No frame command reads CRC, CMDERR or RDATA. -/
theorem SameFrame.frameAfter {k l : Block} (h : SameFrame k l) (i : Instr) :
    SameFrame (frameAfter k i) (frameAfter l i) := by
  obtain ⟨c, rfl⟩ := h
  cases i with
  | frameStart n => exact ⟨c, rfl⟩
  | frameByte b => exact ⟨c, frameByte_withFrameOf c l b⟩
  | frameAbort => exact ⟨closeFrame c, rfl⟩
  | nop | crcInit | crcByte | crcRead | statusRead | wordRead => exact ⟨c, rfl⟩

theorem SameFrame.foldl_frameAfter {k l : Block} (h : SameFrame k l) (commands : List Instr) :
    SameFrame (commands.foldl Machine.frameAfter k) (commands.foldl Machine.frameAfter l) := by
  induction commands generalizing k l with
  | nil => exact h
  | cons i is ih => exact ih (h.frameAfter i)

section StreamOfOneInput

variable {P : Params} {keep : Instr → Bool} {x : Input}

theorem streamOf_singleton_of_kept {i : Instr} (hd : inputInstr P x = some i) (hi : keep i = true) :
    streamOf P keep [x] = [i] := by
  simp [streamOf, hd, hi]

theorem streamOf_singleton_of_not_kept (h : (inputInstr P x).any keep = false) : streamOf P keep [x] = [] := by
  cases hd : inputInstr P x <;> simp_all [streamOf]

end StreamOfOneInput

/-- A step moves the frame engine by the frame commands among its one input. -/
theorem FrameStep.sameFrame {s : State} {k : Block} {x : Input} {rest : List Input} (hk : FrameStep s k)
    (hp : s.port = x :: rest) (hx : x ≠ .reset) :
    SameFrame k ((streamOf s.params isFrameCommand [x]).foldl Machine.frameAfter s.block) := by
  cases hk with
  | reset hp' => cases hp.symm.trans hp'; exact absurd rfl hx
  | start hp' hd | byte hp' hd | abort hp' hd =>
    cases hp.symm.trans hp'
    rw [streamOf_singleton_of_kept (x := .command _) hd rfl]
    exact .refl _
  | other c hq =>
    rw [nextInputIs, hp] at hq
    cases x with
    | reset => exact absurd rfl hx
    | command w =>
      rw [streamOf_singleton_of_not_kept (x := .command w) hq]
      exact ⟨c, rfl⟩

theorem blockStep_sameFrame (P : Params) (k : Block) {x : Input} (hx : x ≠ .reset) :
    SameFrame (blockStep P k x).1 ((streamOf P isFrameCommand [x]).foldl frameAfter k) := by
  obtain ⟨t, ht⟩ := everyStepAnswersNext { params := P, block := k, port := [x], resp := none }
  rw [blockStep_of_step (s := { params := P, block := k, port := [x], resp := none }) rfl ht]
  exact (step_frameStep ht).sameFrame rfl hx

theorem foldl_blockStep_sameFrame (P : Params) {inputs : List Input} (hreset : noReset inputs = true) (k : Block) :
    SameFrame (inputs.foldl (fun k x => (blockStep P k x).1) k)
      ((streamOf P isFrameCommand inputs).foldl frameAfter k) := by
  induction inputs generalizing k with
  | nil => exact .refl k
  | cons x xs ih =>
    simp only [noReset, List.all_cons, Bool.and_eq_true, decide_eq_true_eq] at hreset
    obtain ⟨hx, hxs⟩ := hreset
    rw [streamOf_cons, List.foldl_append, List.foldl_cons]
    exact (ih hxs _).trans ((blockStep_sameFrame P k hx).foldl_frameAfter _)

/-! ## What a stream of inputs does to CMDERR (10_state.md R31, 30_encoding.md R74) -/

theorem step_cmderr {s t : State} {x : Input} {rest : List Input} (hp : s.port = x :: rest)
    (hx : clearsCommandError s.params x = false) (h : step s = .next t) :
    t.block.cmderr = (s.block.cmderr || isIllegalWord s.params x) := by
  cases x with
  | reset => cases hx
  | command w =>
    cases hd : decode s.params w with
    | none =>
      cases (step_illegal hp hd).symm.trans h
      simp [isIllegalWord, hd]
    | some i =>
      obtain ⟨-, -, -, -, -, -, -, -, -, -, -, hcmderr, -⟩ := eachRegisterHasItsOwnWriters s t w rest hp h
      have hsame : t.block.cmderr = s.block.cmderr := by
        by_contra hne
        obtain hnone | habort := hcmderr hne
        · exact nomatch hd.symm.trans hnone
        · exact of_decide_eq_false hx habort
      simp [hsame, isIllegalWord, hd]

theorem blockStep_cmderr {P : Params} {x : Input} (hx : clearsCommandError P x = false) (k : Block) :
    (blockStep P k x).1.cmderr = (k.cmderr || isIllegalWord P x) := by
  obtain ⟨t, ht⟩ := everyStepAnswersNext { params := P, block := k, port := [x], resp := none }
  rw [blockStep_of_step (s := { params := P, block := k, port := [x], resp := none }) rfl ht]
  exact step_cmderr (rest := []) rfl hx ht

theorem foldl_blockStep_cmderr {P : Params} {inputs : List Input} (h : ∀ x ∈ inputs, clearsCommandError P x = false)
    (k : Block) :
    (inputs.foldl (fun k x => (blockStep P k x).1) k).cmderr = (k.cmderr || inputs.any (isIllegalWord P)) := by
  induction inputs generalizing k with
  | nil => simp
  | cons x xs ih =>
    obtain ⟨hx, hxs⟩ := List.forall_mem_cons.mp h
    rw [List.foldl_cons, ih hxs, blockStep_cmderr hx, List.any_cons, Bool.or_assoc]

theorem clearsCommandError_eq_false {P : Params} {inputs : List Input} (hreset : noReset inputs = true)
    (habort : .frameAbort ∉ streamOf P isFrameCommand inputs) : ∀ x ∈ inputs, clearsCommandError P x = false := by
  intro x hx
  cases x with
  | reset => exact absurd rfl (of_decide_eq_true (List.all_eq_true.mp hreset _ hx))
  | command w =>
    exact decide_eq_false fun hd => habort (List.mem_filter.mpr ⟨List.mem_filterMap.mpr ⟨_, hx, hd⟩, rfl⟩)

/-! ## The bytes of one frame (41_frame.md R130) -/

/-- The block after some frame bytes. -/
def feed (bytes : List Byte) (k : Block) : Block := bytes.foldl (fun k b => frameByte b k) k

theorem feed_append_byte (bytes : List Byte) (b : Byte) (k : Block) :
    feed (bytes ++ [b]) k = frameByte b (feed bytes k) := by
  simp [feed]

theorem foldl_frameAfter_frame (n : Byte) (bytes : List Byte) (k : Block) :
    (.frameStart n :: bytes.map .frameByte).foldl frameAfter k = feed bytes (openFrame n k) := by
  rw [List.foldl_cons, List.foldl_map]
  rfl

/-- A stream without Reset whose frame commands are FRAME_START n and some bytes leaves the frame engine as those commands
alone do, and CMDERR set by its illegal words. -/
theorem run_frameStream {s : State} {inputs rest : List Input} {n : Byte} {bytes : List Byte}
    (hp : s.port = inputs ++ rest) (hreset : noReset inputs = true)
    (hstream : streamOf s.params isFrameCommand inputs = .frameStart n :: bytes.map .frameByte) :
    ∃ t c, Host.Core.run core inputs.length s = .next t ∧ t.port = rest ∧
      t.block = withFrameOf c (feed bytes (openFrame n s.block)) ∧
      t.block.cmderr = (s.block.cmderr || inputs.any (isIllegalWord s.params)) := by
  obtain ⟨t, hrun, hport, -, hblock⟩ := runIsLeftFoldOfSteps s inputs rest hp
  obtain ⟨c, hframe⟩ := foldl_blockStep_sameFrame s.params hreset s.block
  rw [hstream, foldl_frameAfter_frame] at hframe
  have hclears := clearsCommandError_eq_false hreset (P := s.params) (by simp [hstream])
  exact ⟨t, c, hrun, hport, hblock.trans hframe, hblock ▸ foldl_blockStep_cmderr hclears s.block⟩

/-- A drained byte stores nothing and records no over-run. -/
theorem drainByte_frame (k : Block) : (drainByte k).wbuf = k.wbuf ∧ (drainByte k).ovr = k.ovr := by
  obtain ⟨-, hk⟩ | ⟨-, hk⟩ := drainByte_cases k <;> simp [hk]

/-- A frame is open or complete: its last triple ends RUN, and only that one (R123, R125). -/
def FrameUnderWay (k : Block) : Prop :=
  k.phase = .err ∨ (k.phase = .run ∧ k.widx ≠ k.n) ∨ (k.phase = .done ∧ k.widx = k.n)

theorem frameUnderWay_openFrame (n : Byte) (k : Block) : FrameUnderWay (openFrame n k) := by
  obtain ⟨rfl, hp⟩ | ⟨hn, hp⟩ := openFrame_phase_cases n k
  · exact .inr (.inr ⟨hp, rfl⟩)
  · exact .inr (.inl ⟨hp, Ne.symm hn⟩)

/-- A byte that is expected leaves the frame under way and records no over-run. -/
theorem frameByte_underWay {k : Block} (hexp : ByteExpected k) (hw : k.widx ≠ k.n) (b : Byte) :
    FrameUnderWay (frameByte b k) ∧ (frameByte b k).ovr = k.ovr := by
  obtain ⟨hne, -⟩ | ⟨hp, -, hk⟩ | ⟨hp, -, hk⟩ | ⟨hp, -, hk⟩ | ⟨hp, -, -, hk⟩ | ⟨-, -, -, hk⟩ := frameByte_cases b k
  · exact absurd hexp hne
  all_goals rw [hk]
  · obtain ⟨-, hovr⟩ := drainByte_frame k
    exact ⟨.inl ((drainByte_phase k).trans hp), hovr⟩
  · exact ⟨.inr (.inl ⟨hp, hw⟩), rfl⟩
  · exact ⟨.inr (.inl ⟨hp, hw⟩), rfl⟩
  · exact ⟨.inr ((acceptTriple_phase_cases hp).symm.imp And.symm And.symm), rfl⟩
  · exact ⟨.inl rfl, rfl⟩

/-- A frame of n words that has taken m of its 3n bytes. -/
structure FrameProgress (k : Block) (n : Byte) (m : Nat) : Prop where
  words : k.n = n
  count : m = bytesTaken k
  bound : m ≤ 3 * n.toNat
  ovr : k.ovr = false
  underWay : FrameUnderWay k

section FrameProgressOps

variable {k : Block} {n : Byte} {m : Nat} (h : FrameProgress k n m)
include h

theorem FrameProgress.widx_lt (hm : m < 3 * n.toNat) : k.widx < k.n := by
  have hcount := h.count
  rw [bytesTaken] at hcount
  rw [h.words, BitVec.lt_def]
  omega

theorem FrameProgress.withFrameOf (c : Block) : FrameProgress (withFrameOf c k) n m := { h with }

/-- While bytes are due the frame is in RUN or in a drain. -/
theorem FrameProgress.phase_of_lt (hm : m < 3 * n.toNat) : k.phase = .run ∨ k.phase = .err := by
  have hne := BitVec.ne_of_lt (h.widx_lt hm)
  obtain hp | ⟨hp, -⟩ | ⟨-, hw⟩ := h.underWay
  · exact .inr hp
  · exact .inl hp
  · exact absurd hw hne

theorem FrameProgress.byteExpected (hm : m < 3 * n.toNat) : ByteExpected k :=
  (h.phase_of_lt hm).imp id fun hp => ⟨hp, BitVec.ne_of_lt (h.widx_lt hm)⟩

theorem FrameProgress.frameByte (hm : m < 3 * n.toNat) (b : Byte) : FrameProgress (frameByte b k) n (m + 1) := by
  have hlt := h.widx_lt hm
  have hexp := h.byteExpected hm
  obtain ⟨hunderWay, hovr⟩ := frameByte_underWay hexp (BitVec.ne_of_lt hlt) b
  obtain ⟨-, hn, -⟩ := frameByte_frame b k
  exact {
    words := hn.trans h.words
    count := by rw [bytesTaken_frameByte hexp hlt, h.count]
    bound := hm
    ovr := hovr.trans h.ovr
    underWay := hunderWay }

/-- WIDX is the whole triples and POS the bytes beyond them. -/
theorem FrameProgress.position : k.widx.toNat = m / 3 ∧ (posCode k.pos).toNat = m % 3 := by
  have hcount := h.count
  have hpos : (posCode k.pos).toNat < 3 := by cases k.pos <;> decide
  rw [bytesTaken] at hcount
  omega

/-- All 3n bytes complete the frame. -/
theorem FrameProgress.complete (hm : m = 3 * n.toNat) :
    k.widx = n ∧ k.pos = .high ∧ (k.phase = .done ∨ k.phase = .err) := by
  obtain ⟨hw, hq⟩ := h.position
  have hwidx : k.widx = n := by
    apply BitVec.eq_of_toNat_eq
    omega
  refine ⟨hwidx, ?_, ?_⟩
  · cases hpos : k.pos with
    | high => rfl
    | low | check => rw [hpos, hm, Nat.mul_mod_right] at hq; cases hq
  · obtain hp | ⟨-, hne⟩ | ⟨hp, -⟩ := h.underWay
    · exact .inr hp
    · exact absurd (hwidx.trans h.words.symm) hne
    · exact .inl hp

end FrameProgressOps

theorem frameProgress_feed (n : Byte) (k : Block) (bytes : List Byte) (hlen : bytes.length ≤ 3 * n.toNat) :
    FrameProgress (feed bytes (openFrame n k)) n bytes.length := by
  induction bytes using List.reverseRecOn with
  | nil => exact ⟨rfl, rfl, Nat.zero_le _, rfl, frameUnderWay_openFrame n k⟩
  | append_singleton bytes b ih =>
    rw [List.length_append, List.length_singleton] at hlen ⊢
    rw [feed_append_byte]
    exact (ih (Nat.le_of_succ_le hlen)).frameByte hlen b

/-- Settles O44: each byte of the frame advances the position by one. -/
theorem positionCountsBytes : Obligations.PositionCountsBytes := by
  intro s inputs rest n bytes _ hlen hport hreset hstream
  obtain ⟨t, c, hrun, -, hblock, -⟩ := run_frameStream hport hreset hstream
  have hprogress : FrameProgress t.block n bytes.length :=
    hblock ▸ (frameProgress_feed n s.block bytes hlen).withFrameOf c
  exact ⟨t, hrun, hprogress.words, hprogress.position⟩

/-! ## A truncated frame (41_frame.md R132) -/

theorem responds_wordRead (i : Byte) (s : State) : Responds (.wordRead i) s (gatedWord s.block i) := ⟨_, rfl, rfl⟩

/-- Outside DONE no word is readable (R126). -/
theorem responds_wordRead_of_not_done {s : State} (hp : s.block.phase ≠ .done) (i : Byte) :
    Responds (.wordRead i) s 0x0000 := by
  have hgated : gatedWord s.block i = 0x0000 := if_neg fun ⟨hp', _⟩ => hp hp'
  exact hgated ▸ responds_wordRead i s

theorem run_idle (k : Nat) {s : State} (hp : s.port = []) :
    ∃ u, Host.Core.run core k s = .next u ∧ u.block = s.block := by
  induction k generalizing s with
  | zero => exact ⟨s, rfl, rfl⟩
  | succ k ih =>
    obtain ⟨u, hrun, hblock⟩ := ih (s := idleStep s) hp
    exact ⟨u, (run_succ_of_step (M := core) (step_idle hp) k).trans hrun, hblock⟩

/-- Settles O45: a frame with bytes due is in RUN or ERR, and an idle port does not move the block. -/
theorem truncatedFrameStaysOpen : Obligations.TruncatedFrameStaysOpen := by
  intro s inputs n bytes _ hlen hport hreset hstream
  obtain ⟨t, c, hrun, hempty, hblock, -⟩ := run_frameStream (rest := []) (by simpa using hport) hreset hstream
  have hprogress : FrameProgress t.block n bytes.length :=
    hblock ▸ (frameProgress_feed n s.block bytes (Nat.le_of_lt hlen)).withFrameOf c
  have hphase := hprogress.phase_of_lt hlen
  have hnotdone : t.block.phase ≠ .done := by
    obtain hp | hp := hphase <;> simp [hp]
  exact ⟨t, hrun, hphase, hprogress.widx_lt hlen, hprogress.ovr, responds_wordRead_of_not_done hnotdone,
    fun k => run_idle k hempty⟩

/-! ## A whole frame computes `decode_words` (41_frame.md R127) -/

theorem feed_size (bytes : List Byte) (k : Block) : (feed bytes k).wbuf.length = k.wbuf.length := by
  induction bytes using List.reverseRecOn with
  | nil => rfl
  | append_singleton bytes b ih => rw [feed_append_byte, frameByte_size, ih]

theorem fcrcTracks_feed {k : Block} (h : FcrcTracks k) (bytes : List Byte) : FcrcTracks (feed bytes k) := by
  induction bytes using List.reverseRecOn with
  | nil => exact h
  | append_singleton bytes b ih => rw [feed_append_byte]; exact ih.frameByte b

theorem frameMatches_feed {n : Byte} {k : Block} (hbuf : n.toNat ≤ k.wbuf.length) (bytes : List Byte)
    (hlen : bytes.length ≤ 3 * n.toNat) : FrameMatches (feed bytes (openFrame n k)) bytes := by
  induction bytes using List.reverseRecOn with
  | nil => exact frameMatches_openFrame n k
  | append_singleton bytes b ih =>
    rw [List.length_append, List.length_singleton] at hlen
    have hprogress := frameProgress_feed n k bytes (Nat.le_of_succ_le hlen)
    have hsize : (feed bytes (openFrame n k)).n.toNat ≤ (feed bytes (openFrame n k)).wbuf.length := by
      rw [hprogress.words, feed_size]
      exact hbuf
    have hbyte := (ih (Nat.le_of_succ_le hlen)).frameByte (fcrcTracks_feed (fcrcTracks_of_pos_high rfl) bytes)
      (fun _ => hprogress.widx_lt hlen) hsize b
    rwa [if_pos (hprogress.byteExpected hlen), ← feed_append_byte] at hbyte

/-- The words below N are read from WBUF in DONE. -/
theorem responds_wordRead_done {s : State} {i : Byte} (hp : s.block.phase = .done) (hi : i < s.block.n)
    (hin : i.toNat < s.block.wbuf.length) : Responds (.wordRead i) s s.block.wbuf[i.toNat] := by
  have hgated : gatedWord s.block i = s.block.wbuf[i.toNat] := by
    rw [gatedWord_done hp hi, readWord, List.getD_eq_getElem _ _ hin]
  exact hgated ▸ responds_wordRead i s

/-- Settles O43: at the last byte every triple is complete, so the agreement with `decode_words` is on the whole
buffer. -/
theorem frameStreamComputesDecodeWords : Obligations.FrameStreamComputesDecodeWords := by
  intro s inputs rest n buf hwf hn hlen hport hreset hstream
  have hbuf : n.toNat ≤ s.block.wbuf.length := (Memory.wf_iff _ _).mp hwf ▸ hn
  obtain ⟨t, c, hrun, htport, hblock, hcmderr⟩ := run_frameStream hport hreset hstream
  have hprogress : FrameProgress t.block n buf.length :=
    hblock ▸ (frameProgress_feed n s.block buf hlen.le).withFrameOf c
  have hmatches : FrameMatches t.block buf := hblock ▸ { frameMatches_feed hbuf buf hlen.le with }
  have hsize : n.toNat ≤ t.block.wbuf.length := by
    rw [hblock, withFrameOf_wbuf, feed_size]
    exact hbuf
  obtain ⟨hwidx, hpos, hphase⟩ := hprogress.complete hlen
  have htake : buf.take (3 * n.toNat) = buf := List.take_of_length_le hlen.le
  refine ⟨t, hrun, htport, hprogress.words, hwidx, hpos, hprogress.ovr, hcmderr, ?_⟩
  obtain hp | hp := hphase
  · have hok := hmatches.valid (.inr hp)
    rw [hwidx, htake] at hok
    rw [hok]
    refine ⟨hp, List.length_take_of_le hsize, fun i hi => ?_⟩
    have hin : i.toNat < t.block.wbuf.length := Nat.lt_of_lt_of_le hi hsize
    refine ⟨t.block.wbuf[i.toNat], ?_, responds_wordRead_done hp (hprogress.words ▸ hi) hin⟩
    rw [List.getElem?_take_of_lt hi, List.getElem?_eq_getElem hin]
  · have herr := hmatches.mismatch hp
    rw [hwidx, htake] at herr
    rw [herr]
    exact ⟨hp, decodeWords_err_lt herr, by simp, responds_wordRead_of_not_done (by simp [hp])⟩

end Sys2Proof.Machine

namespace Sys2Proof.Machine

/-! ## The frame commands, one rule each (41_frame.md R122 to R124, R129, R131) -/

theorem encode_frameStart (n : Byte) : encode (.frameStart n) = 0x4000 + n.setWidth 16 := encode_eq_add (.frameStart n)

theorem encode_frameByte (b : Byte) : encode (.frameByte b) = 0x5000 + b.setWidth 16 := encode_eq_add (.frameByte b)

theorem wellFormed_frameStart {P : Params} {n : Byte} (hn : n.toNat ≤ P.maxWords) :
    wellFormed P (.frameStart n) = true := decide_eq_true hn

theorem decode_frameStart {P : Params} {n : Byte} (hn : n.toNat ≤ P.maxWords) :
    decode P (0x4000 + n.setWidth 16) = some (.frameStart n) := by
  rw [← encode_frameStart]
  exact decode_encode (wellFormed_frameStart hn)

/-- A count above MAX_WORDS fails the last condition of R73. -/
theorem decode_frameStart_of_lt {P : Params} {n : Byte} (hn : P.maxWords < n.toNat) :
    decode P (0x4000 + n.setWidth 16) = none := by
  rw [← encode_frameStart]
  obtain ⟨hop, -, harg⟩ := fields_of_encode (.frameStart n)
  refine decode_eq_none_iff.mpr fun ⟨_, _, _, hcount⟩ => Nat.not_lt.mpr (hcount hop) ?_
  rw [fieldArg, operand] at harg
  rwa [harg]

/-- Settles O8: the largest of the four is 16, which R5 allows at least. -/
theorem driverFrameSizesAreLegal : Obligations.DriverFrameSizesAreLegal := by
  intro P n hP hn
  simp only [Params.wf, Bool.and_eq_true, decide_eq_true_eq] at hP
  have hle : n.toNat ≤ 16 := by obtain rfl | rfl | rfl | rfl := hn <;> decide
  exact decode_frameStart (hle.trans hP.1)

/-- With no error recorded STATUS shows PHASE alone (10_state.md R33). -/
theorem responds_statusRead_of_no_error {s : State} (heidx : s.block.eidx = 0) (hcmderr : s.block.cmderr = false)
    (hovr : s.block.ovr = false) : Responds .statusRead s ((phaseCode s.block.phase).setWidth 16) := by
  have hstatus : statusWord s.block = (phaseCode s.block.phase).setWidth 16 := by
    simp [statusWord, heidx, hcmderr, hovr, zext16, flagBit]
  exact ⟨_, rfl, congrArg some hstatus⟩

/-- Settles O30: the word is the encoding of FRAME_START n, which is well formed exactly up to MAX_WORDS. -/
theorem frameStartOpensFrame : Obligations.FrameStartOpensFrame := by
  refine ⟨fun P n hn => decode_frameStart hn, fun s n hn => execFrameStart_of_le hn, fun s n rest hp hn => ?_,
    fun s n rest hp hn => step_illegal hp (decode_frameStart_of_lt hn), fun P hP => ?_⟩
  · exact (step_legal hp (decode_frameStart hn)).trans (execFrameStart_of_le (s := taken s rest) hn)
  · simp only [Params.wf, Bool.and_eq_true, decide_eq_true_eq] at hP
    have hn : (3 : Byte).toNat ≤ P.maxWords := Nat.le_trans (by decide) hP.1
    exact ⟨_, execFrameStart_of_le (s := State.resetWith P) hn, rfl, rfl, rfl, rfl,
      responds_statusRead_of_no_error rfl rfl rfl⟩

/-- Settles O32: FRAME_ABORT has no operand, what it writes depends on nothing, and STATUS shows only what it clears. -/
theorem frameAbortClosesFrame : Obligations.FrameAbortClosesFrame := by
  refine ⟨onlyWord_encode (i := .frameAbort) rfl, fun _ => rfl, fun s rest hp => ?_, fun s t h => ?_⟩
  · exact step_encode (i := .frameAbort) hp rfl
  · cases h
    exact ⟨rfl, responds_statusRead_of_no_error rfl rfl rfl⟩

/-- A triple with another checksum byte is rejected. -/
theorem frameByte_triple_mismatch {k : Block} (hp : k.phase = .run) (hq : k.pos = .high) {hi lo c : Byte}
    (hc : c ≠ checksum [hi, lo]) :
    frameByte c (frameByte lo (frameByte hi k)) =
      rejectTriple { k with hi := hi, lo := lo, fcrc := checksum [hi, lo], pos := .check } := by
  rw [frameByte_high hp hq, frameByte_low (k := { k with hi := hi, fcrc := crc8Update 0xFF hi, pos := .low }) hp rfl]
  exact frameByte_mismatch hp rfl hc

section Drain

variable {k : Block}

theorem drainByte_high (hq : k.pos = .high) : drainByte k = { k with pos := .low } := by simp [drainByte, hq, nextPos]

theorem drainByte_low (hq : k.pos = .low) : drainByte k = { k with pos := .check } := by simp [drainByte, hq, nextPos]

theorem drainByte_check (hq : k.pos = .check) : drainByte k = nextTriple k := if_pos hq

end Drain

/-- In RUN the phase an accepted triple leaves is DONE or RUN. -/
theorem acceptTriple_of_run {k : Block} (hp : k.phase = .run) :
    acceptTriple k = { k with
      wbuf := k.wbuf.set k.widx.toNat (joinBytes k.hi k.lo), widx := k.widx + 1, pos := .high
      phase := if k.widx + 1 = k.n then .done else .run } := by
  rw [acceptTriple, hp]
  rfl

theorem exec_frameByte_of_eq {s : State} {b : Byte} {k : Block} (h : frameByte b s.block = k) :
    exec (.frameByte b) s = .next { s with block := k } := h ▸ rfl

theorem noReset_commandInputs (commands : List Instr) : noReset (commandInputs commands) = true := by
  simp [noReset, commandInputs]

theorem streamOf_commandInputs {P : Params} {commands : List Instr} (hwf : ∀ i ∈ commands, wellFormed P i = true)
    (keep : Instr → Bool) : streamOf P keep (commandInputs commands) = commands.filter keep := by
  induction commands with
  | nil => rfl
  | cons i is ih =>
    obtain ⟨hi, his⟩ := List.forall_mem_cons.mp hwf
    have hd : inputInstr P (.command (encode i)) = some i := decode_encode hi
    rw [streamOf, commandInputs, List.map_cons, List.filterMap_cons_some hd, List.filter_cons, List.filter_cons,
      ← ih his]
    rfl

/-- A frame of one triple, from any state. -/
theorem run_frameOfOneTriple {s : State} {hi lo c : Byte} {rest : List Input} (hmax : 1 ≤ s.params.maxWords)
    (hport : s.port = commandInputs [.frameStart 1, .frameByte hi, .frameByte lo, .frameByte c] ++ rest) :
    ∃ t d, Host.Core.run core 4 s = .next t ∧
      t.block = withFrameOf d (frameByte c (frameByte lo (frameByte hi (openFrame 1 s.block)))) := by
  have hwf : ∀ i ∈ [.frameStart 1, .frameByte hi, .frameByte lo, .frameByte c], wellFormed s.params i = true := by
    simp [wellFormed, hmax]
  obtain ⟨t, d, hrun, -, hblock, -⟩ := run_frameStream (bytes := [hi, lo, c]) hport (noReset_commandInputs _)
    (streamOf_commandInputs hwf isFrameCommand)
  exact ⟨t, d, hrun, hblock⟩

/-- Settles O31: each clause is one equation of a frame byte; the last two are I2 and a frame of one triple. -/
theorem frameByteFollowsPseudocode : Obligations.FrameByteFollowsPseudocode := by
  refine ⟨fun P b => ?_, fun s b rest hport => ?_, fun s b hp => ?_, fun s b hp hw => ?_, fun s b hp hw hq => ?_,
    fun s b hp hw hq => ?_, fun s b hp hw hq => ?_, fun s b hp hq => exec_frameByte_of_eq (frameByte_high hp hq),
    fun s b hp hq => exec_frameByte_of_eq (frameByte_low hp hq), fun s b hp hq hb => ?_,
    fun s b hp hq hb => exec_frameByte_of_eq (frameByte_mismatch hp hq hb), fun s h hp hq => h.afterLow hp hq,
    fun s t b hinv h => ?_, fun s c rest hwf hmax hport => ?_⟩
  · rw [← encode_frameByte]
    exact decode_encode rfl
  · rw [← encode_frameByte] at hport
    exact step_encode hport rfl
  · have hne : ¬ ByteExpected s.block := by obtain hp | hp := hp <;> simp [ByteExpected, hp]
    exact exec_frameByte_of_eq (frameByte_unexpected hne)
  · have hne : ¬ ByteExpected s.block := by simp [ByteExpected, hp, hw]
    exact exec_frameByte_of_eq (frameByte_unexpected hne)
  · exact exec_frameByte_of_eq ((frameByte_drain hp hw).trans (drainByte_high hq))
  · exact exec_frameByte_of_eq ((frameByte_drain hp hw).trans (drainByte_low hq))
  · exact exec_frameByte_of_eq ((frameByte_drain hp hw).trans (drainByte_check hq))
  · exact exec_frameByte_of_eq ((frameByte_match hp hq hb).trans (acceptTriple_of_run hp))
  · cases h
    exact (hinv.frameByte b).i2
  · obtain ⟨hsum, -⟩ := checksumReferenceValues
    have hin : 0 < s.block.wbuf.length := (Memory.wf_iff _ _).mp hwf ▸ hmax
    obtain ⟨t, d, hrun, hblock⟩ := run_frameOfOneTriple hmax hport
    refine ⟨t, hrun, ?_, ?_⟩
    · rintro rfl
      rw [← hsum, frameByte_triple rfl rfl, acceptTriple_of_run rfl] at hblock
      have hword : joinBytes 0xBE#8 0xEF#8 = 0xBEEF#16 := by decide
      rw [hblock]
      refine ⟨rfl, ?_⟩
      simp [readWord, hin, hword]
    · intro hc
      rw [frameByte_triple_mismatch rfl rfl (hsum ▸ hc)] at hblock
      rw [hblock]
      exact ⟨rfl, rfl⟩

/-- Only a valid triple's checksum byte stores. -/
theorem frameByte_wbuf {b : Byte} {k : Block} (h : storesWord b k = false) : (frameByte b k).wbuf = k.wbuf := by
  obtain ⟨-, hk⟩ | ⟨-, -, hk⟩ | ⟨-, -, hk⟩ | ⟨-, -, hk⟩ | ⟨hp, hq, hb, -⟩ | ⟨-, -, -, hk⟩ := frameByte_cases b k
  · rw [hk]; rfl
  · rw [hk]; exact (drainByte_frame k).1
  · rw [hk]
  · rw [hk]
  · exact absurd (storesWord_iff.mpr ⟨hp, hq, hb⟩) (by simp [h])
  · rw [hk]; rfl

theorem frameByte_of_storesWord {b : Byte} {k : Block} (h : storesWord b k = true) : frameByte b k = acceptTriple k := by
  obtain ⟨hp, hq, hb⟩ := storesWord_iff.mp h
  exact frameByte_match hp hq hb

/-- No command but FRAME_BYTE writes WBUF. -/
theorem exec_wbuf {i : Instr} {s t : State} (hi : ∀ b, i ≠ .frameByte b) (h : exec i s = .next t) :
    t.block.wbuf = s.block.wbuf := by
  cases i with
  | frameStart n =>
    by_cases hn : n.toNat ≤ s.params.maxWords
    · cases (execFrameStart_of_le hn).symm.trans h; rfl
    · cases (execFrameStart_of_not_le hn).symm.trans h; rfl
  | frameByte b => exact absurd rfl (hi b)
  | nop | crcInit | crcByte | crcRead | frameAbort | statusRead | wordRead => cases h; rfl

/-- What an accepted triple leaves in WBUF is one write at the store index. -/
theorem readWord_acceptTriple (k : Block) (j : Nat) :
    readWord (acceptTriple k) j = readWord (writeWord (storeIndex k) (joinBytes k.hi k.lo) k) j := rfl

/-- Settles O35: a frame byte stores only by accepting a triple, which is one write at WIDX. -/
theorem onlyValidTriplesAreStored : Obligations.OnlyValidTriplesAreStored := by
  refine ⟨fun s t b h => ?_, fun i s t hi h => ?_⟩
  · cases h
    obtain ⟨hcrc, hn, hcmderr, hrdata⟩ := frameByte_frame b s.block
    refine ⟨rfl, rfl, rfl, hcrc, hn, hcmderr, hrdata, fun hs a j ha hj => ?_, fun hs hin => ?_, fun hs j => ?_⟩
    · rw [frameByte_of_storesWord hs, readWord_acceptTriple, ha, readWord_writeWord_other hj]
    · rw [frameByte_of_storesWord hs, readWord_acceptTriple, readWord_writeWord_same hin]
    · rw [readWord, frameByte_wbuf hs, readWord]
  · have hwbuf := exec_wbuf hi h
    exact ⟨hwbuf, fun j => by rw [readWord, hwbuf, readWord]⟩

/-- No word of a frame just opened is readable: in DONE it has none. -/
theorem responds_wordRead_openFrame {s : State} {n : Byte} {k : Block} (h : s.block = openFrame n k) (i : Byte) :
    Responds (.wordRead i) s 0x0000 := by
  have hgated : gatedWord s.block i = 0x0000 := by
    rw [h]
    exact if_neg fun ⟨hp, hi⟩ => not_lt_count_of_openFrame_done hp _ hi
  exact hgated ▸ responds_wordRead i s

/-- Settles O47: a frame just opened holds nothing of the frame before it that a program reads: WIDX and POS are 0, and
DONE at once means N = 0. -/
theorem restartLeavesNoTrace : Obligations.RestartLeavesNoTrace := by
  intro s u n hn hparams hport hresp hcrc hcmderr hrdata hsize
  refine ⟨_, _, execFrameStart_of_le hn, execFrameStart_of_le (hparams ▸ hn), ?_, rfl, rfl,
    fun i => responds_wordRead_openFrame rfl i⟩
  exact {
      params := hparams
      port := hport
      resp := hresp
      crc := hcrc
      phase := rfl
      n := rfl
      widx := rfl
      pos := rfl
      eidx := rfl
      ovr := rfl
      cmderr := hcmderr
      rdata := hrdata
      bufferSize := hsize
      afterHigh := fun _ hq => absurd rfl hq
      afterLow := fun _ hq => nomatch hq
      whileRun := fun _ i hi => absurd hi (Nat.not_lt_zero i)
      whenDone := fun hp i hi => absurd hi (not_lt_count_of_openFrame_done hp i) }

end Sys2Proof.Machine

namespace Sys2Proof.Machine

/-! ## NOP (42_readout.md R150) -/

/-- Settles O26: NOP has no operand, and its meaning is the state it found. -/
theorem nopDoesNothing : Obligations.NopDoesNothing :=
  ⟨onlyWord_encode (i := .nop) rfl, fun _ => rfl, fun _ _ hp => step_encode (i := .nop) hp rfl⟩

/-! ## The fields of STATUS (10_state.md R33) -/

section StatusFields

variable (k : Block)

/-- R33 bit by bit, from bit 0 up: no two fields share a bit, and [7:4] is no field. -/
theorem statusWord_getLsbD (j : Nat) :
    (statusWord k).getLsbD j =
      if j < 2 then (phaseCode k.phase).getLsbD j
      else if j = 2 then k.ovr
      else if j = 3 then k.cmderr
      else if j < 8 then false
      else k.eidx.getLsbD (j - 8) := by
  simp only [statusWord, zext16, flagBit, BitVec.getLsbD_or, BitVec.getLsbD_shiftLeft, BitVec.getLsbD_setWidth,
    BitVec.getLsbD_ofBool]
  grind

theorem statusWord_eidx : (statusWord k).extractLsb' 8 8 = k.eidx := by
  ext j hj
  rw [BitVec.getElem_extractLsb', statusWord_getLsbD]
  simp (disch := omega) only [if_neg, Nat.add_sub_cancel_left, BitVec.getLsbD_eq_getElem]

theorem statusWord_reserved : (statusWord k).extractLsb' 4 4 = 0#4 := by
  ext j hj
  rw [BitVec.getElem_extractLsb', statusWord_getLsbD]
  simp (disch := omega) only [if_neg, if_pos, BitVec.getElem_zero]

theorem statusWord_cmderr : (statusWord k).getLsbD 3 = k.cmderr := statusWord_getLsbD k 3

theorem statusWord_ovr : (statusWord k).getLsbD 2 = k.ovr := statusWord_getLsbD k 2

theorem statusWord_phase : (statusWord k).extractLsb' 0 2 = phaseCode k.phase := by
  ext j hj
  rw [BitVec.getElem_extractLsb', statusWord_getLsbD]
  simp (disch := omega) only [if_pos, Nat.zero_add, BitVec.getLsbD_eq_getElem]

end StatusFields

theorem responds_statusRead (s : State) : Responds .statusRead s (statusWord s.block) := ⟨_, rfl, rfl⟩

/-- In ERR the recorded index is that of a complete triple of the frame (10_state.md R34, I7). -/
theorem Invariant.eidx_lt_of_err {s : State} (h : Invariant s) (hp : s.block.phase = .err) :
    s.block.eidx < s.block.n := by
  obtain ⟨-, heidx, hwidx, -⟩ := h.i7 hp
  exact Nat.lt_of_lt_of_le heidx hwidx

/-- Only ERR records a nonzero index (10_state.md R34, I8). -/
theorem Invariant.err_of_eidx_ne_zero {s : State} (h : Invariant s) (he : s.block.eidx ≠ 0#8) : s.block.phase = .err :=
  Decidable.of_not_not fun hp => he (h.i8 hp)

/-- Settles O33: STATUS_READ has no operand and is a read, each field is its slice of the word, and I7 and I8 bound
EIDX. -/
theorem statusReadRespondsStatus : Obligations.StatusReadRespondsStatus := by
  refine ⟨onlyWord_encode (i := .statusRead) rfl, fun s => ?_, fun s rest hp => step_encode (i := .statusRead) hp rfl,
    fun s t h => exec_read_idempotent rfl h, rfl, rfl, rfl, rfl, fun P => responds_statusRead_of_no_error rfl rfl rfl,
    fun s hp heidx hovr hcmderr => ?_⟩
  · refine ⟨statusWord s.block, exec_read rfl s, rfl, statusWord_eidx _, statusWord_reserved _, statusWord_cmderr _,
      statusWord_ovr _, statusWord_phase _, fun hinv => ?_⟩
    rw [statusWord_eidx]
    refine ⟨hinv.eidx_lt_of_err, hinv.i8, fun he => ⟨hinv.err_of_eidx_ne_zero he, ?_⟩⟩
    bv_omega
  · have hstatus : statusWord s.block = 0x0507 := by
      rw [statusWord, hp, heidx, hovr, hcmderr]
      rfl
    exact hstatus ▸ responds_statusRead s

/-! ## WORD_READ (42_readout.md R152) -/

theorem encode_wordRead (i : Byte) : encode (.wordRead i) = 0x8000 + i.setWidth 16 := encode_eq_add (.wordRead i)

theorem gatedWord_closed {k : Block} {i : Byte} (h : k.phase ≠ .done ∨ k.n ≤ i) : gatedWord k i = 0x0000 := by
  refine if_neg fun ⟨hp, hi⟩ => ?_
  obtain hp' | hn := h
  · exact hp' hp
  · exact BitVec.not_lt.mpr hn hi

/-- Settles O34: WORD_READ responds the gated word, open exactly in DONE below N. -/
theorem wordReadIsGated : Obligations.WordReadIsGated := by
  refine ⟨fun P i => ?_, fun s i v hp hi hv => ?_, fun s i hinv hi => ?_, fun s i hclosed => ?_, fun s i rest hp => ?_⟩
  · rw [← encode_wordRead]
    exact decode_encode rfl
  · have hgated : gatedWord s.block i = v := by
      rw [gatedWord_done hp hi, readWord, List.getD_eq_getElem?_getD, hv, Option.getD_some]
    exact hgated ▸ exec_read (i := .wordRead i) rfl s
  · exact ⟨_, List.getElem?_eq_getElem (hinv.lt_buffer (BitVec.lt_def.mp hi))⟩
  · exact gatedWord_closed hclosed ▸ exec_read (i := .wordRead i) rfl s
  · rw [← encode_wordRead] at hp
    exact step_encode hp rfl

end Sys2Proof.Machine

namespace Sys2Proof.Machine

/-! ## What raises an error record (60_exceptions.md R171 to R173) -/

theorem drainByte_eidx (k : Block) : (drainByte k).eidx = k.eidx := by
  obtain ⟨-, h⟩ | ⟨-, h⟩ := drainByte_cases k <;> simp [h]

theorem acceptTriple_phase_ne_err {k : Block} (hp : k.phase = .run) : (acceptTriple k).phase ≠ .err := by
  rw [acceptTriple_phase, hp]
  split <;> nofun

/-- A frame byte that is not expected raises the over-run, the first mismatch raises the checksum error, and any other
byte leaves OVR, EIDX and whether the phase is ERR as they were. -/
theorem frameByte_error_cases (b : Byte) (k : Block) :
    (¬ ByteExpected k ∧ frameByte b k = raise .overRun k) ∨
    (k.phase = .run ∧ k.pos = .check ∧ b ≠ k.fcrc ∧ frameByte b k = rejectTriple k) ∨
    ((frameByte b k).ovr = k.ovr ∧ (frameByte b k).eidx = k.eidx ∧ ((frameByte b k).phase = .err ↔ k.phase = .err)) := by
  obtain ⟨hne, hk⟩ | ⟨-, -, hk⟩ | ⟨-, -, hk⟩ | ⟨-, -, hk⟩ | ⟨hp, -, -, hk⟩ | ⟨hp, hq, hb, hk⟩ := frameByte_cases b k
  · exact .inl ⟨hne, hk⟩
  · exact .inr (.inr (hk ▸ ⟨(drainByte_frame k).2, drainByte_eidx k, by rw [drainByte_phase]⟩))
  · exact .inr (.inr (hk ▸ ⟨rfl, rfl, .rfl⟩))
  · exact .inr (.inr (hk ▸ ⟨rfl, rfl, .rfl⟩))
  · have hrun : k.phase ≠ .err := by simp [hp]
    exact .inr (.inr (hk ▸ ⟨rfl, rfl, iff_of_false (acceptTriple_phase_ne_err hp) hrun⟩))
  · exact .inr (.inl ⟨hp, hq, hb, hk⟩)

theorem openFrame_phase_ne_err (n : Byte) (k : Block) : (openFrame n k).phase ≠ .err := by
  rw [openFrame_phase]
  split <;> nofun

/-! ## What clears an error record (60_exceptions.md R177) -/

/-- The inputs that clear ERR, EIDX and OVR are among those that reach the frame engine. -/
theorem reachesFrame_of_clearsFrameErrors {P : Params} {x : Input} (h : clearsFrameErrors P x = true) :
    reachesFrame P x = true := by
  cases x with
  | reset => rfl
  | command w =>
    simp only [clearsFrameErrors] at h
    split at h
    case h_1 hd | h_2 hd => simp [reachesFrame, hd, isFrameCommand]
    case h_3 => cases h

theorem nextInputIs_mono {p q : Params → Input → Bool} (hpq : ∀ {P x}, p P x = true → q P x = true) {s : State}
    (h : nextInputIs p s = true) : nextInputIs q s = true := by
  unfold nextInputIs at *
  split at h
  · cases h
  · exact hpq h

section FrameErrors

variable {s : State} {k : Block} (hk : FrameStep s k)
include hk

theorem FrameStep.keeps_frameErrors (hq : nextInputIs clearsFrameErrors s = false) :
    (s.block.phase = .err → k.phase = .err ∧ k.eidx = s.block.eidx) ∧ (s.block.ovr = true → k.ovr = true) := by
  cases hk with
  | reset hp => simp [nextInputIs, hp, clearsFrameErrors] at hq
  | start hp hd | abort hp hd => simp [nextInputIs, hp, clearsFrameErrors, hd] at hq
  | @byte _ _ b =>
    obtain ⟨-, h⟩ | ⟨hrun, -, -, h⟩ | ⟨hovr, heidx, hphase⟩ := frameByte_error_cases b s.block
    · rw [h]
      exact ⟨fun hp => ⟨hp, rfl⟩, fun _ => rfl⟩
    · rw [h]
      refine ⟨fun hp => ?_, id⟩
      cases hrun.symm.trans hp
    · exact ⟨fun hp => ⟨hphase.mpr hp, heidx⟩, hovr.trans⟩
  | other => exact ⟨fun hp => ⟨hp, rfl⟩, id⟩

theorem FrameStep.clears_frameErrors (hq : nextInputIs clearsFrameErrors s = true) :
    k.phase ≠ .err ∧ k.eidx = 0 ∧ k.ovr = false := by
  cases hk with
  | reset | abort => exact ⟨nofun, rfl, rfl⟩
  | start => exact ⟨openFrame_phase_ne_err _ _, rfl, rfl⟩
  | byte hp hd => simp [nextInputIs, hp, clearsFrameErrors, hd] at hq
  | other k hnot =>
    exact nomatch hnot.symm.trans (nextInputIs_mono reachesFrame_of_clearsFrameErrors hq)

end FrameErrors

theorem step_keeps_cmderr {s t : State} (h : step s = .next t) (hq : nextInputIs clearsCommandError s = false)
    (hcmderr : s.block.cmderr = true) : t.block.cmderr = true := by
  cases hp : s.port with
  | nil => cases (step_idle hp).symm.trans h; exact hcmderr
  | cons x rest =>
    have hx : clearsCommandError s.params x = false := by simpa [nextInputIs, hp] using hq
    rw [step_cmderr hp hx h, hcmderr, Bool.true_or]

theorem step_clears_cmderr {s t : State} (h : step s = .next t) (hq : nextInputIs clearsCommandError s = true) :
    t.block.cmderr = false := by
  unfold nextInputIs at hq
  split at hq
  case h_1 => cases hq
  case h_2 x rest hp =>
    cases x with
    | reset => cases (step_reset hp).symm.trans h; rfl
    | command w => cases (step_legal hp (of_decide_eq_true hq)).symm.trans h; rfl

/-- CMDERR is all that an illegal word writes. -/
theorem step_illegalWord_of_cmderr {s t : State} (h : step s = .next t) (hq : nextInputIs isIllegalWord s = true)
    (hcmderr : s.block.cmderr = true) : t.block = s.block := by
  unfold nextInputIs at hq
  split at hq
  case h_1 => cases hq
  case h_2 x rest hp =>
    cases x with
    | reset => cases hq
    | command w =>
      cases (step_illegal hp (Option.isNone_iff_eq_none.mp hq)).symm.trans h
      rw [illegalWord_block, ← hcmderr]

/-- Settles O37: the frame engine's records by what a step can do to the frame engine, CMDERR by the kind of the input. -/
theorem onlyNamedInputsClearErrors : Obligations.OnlyNamedInputsClearErrors :=
  fun _ _ h => ⟨(step_frameStep h).keeps_frameErrors, (step_frameStep h).clears_frameErrors, step_keeps_cmderr h,
    step_clears_cmderr h, step_illegalWord_of_cmderr h⟩

/-! ## One command word raises at most one error (60_exceptions.md R176) -/

section RaisedBy

variable {s t : State} {w : Word} {rest : List Input} (hp : s.port = .command w :: rest)
include hp

theorem step_raises_cmderr (h : step s = .next t) (hclear : s.block.cmderr = false) (hset : t.block.cmderr = true) :
    decode s.params w = none ∧ t.block = { s.block with cmderr := true } := by
  obtain ⟨-, -, -, -, -, -, -, -, -, -, -, hwriters, -⟩ := eachRegisterHasItsOwnWriters s t w rest hp h
  obtain hnone | habort := hwriters (by simp [hclear, hset])
  · cases (step_illegal hp hnone).symm.trans h
    exact ⟨hnone, rfl⟩
  · cases (step_legal hp habort).symm.trans h
    cases hset

theorem FrameStep.raises_overRun {k : Block} (hk : FrameStep s k) (hclear : s.block.ovr = false)
    (hset : k.ovr = true) :
    (∃ b, decode s.params w = some (.frameByte b)) ∧ ¬ ByteExpected s.block ∧ k = { s.block with ovr := true } := by
  cases hk with
  | reset | start | abort => cases hset
  | @byte _ _ b hp' hd =>
    cases hp.symm.trans hp'
    obtain ⟨hne, hk⟩ | ⟨-, -, -, hk⟩ | ⟨hovr, -, -⟩ := frameByte_error_cases b s.block
    · exact ⟨⟨b, hd⟩, hne, hk⟩
    · rw [hk] at hset
      exact nomatch hclear.symm.trans hset
    · exact nomatch hclear.symm.trans (hovr.symm.trans hset)
  | other => exact nomatch hclear.symm.trans hset

theorem FrameStep.raises_checksumError {k : Block} (hk : FrameStep s k) (hclear : s.block.phase ≠ .err)
    (hset : k.phase = .err) :
    (∃ b, decode s.params w = some (.frameByte b) ∧ b ≠ s.block.fcrc) ∧ s.block.phase = .run ∧
      s.block.pos = .check ∧ k = rejectTriple s.block := by
  cases hk with
  | reset | abort => cases hset
  | start => exact absurd hset (openFrame_phase_ne_err _ _)
  | @byte _ _ b hp' hd =>
    cases hp.symm.trans hp'
    obtain ⟨-, hk⟩ | ⟨hrun, hcheck, hb, hk⟩ | ⟨-, -, hphase⟩ := frameByte_error_cases b s.block
    · rw [hk] at hset
      exact absurd hset hclear
    · exact ⟨⟨b, hd, hb⟩, hrun, hcheck, hk⟩
    · exact absurd (hphase.mp hset) hclear
  | other => exact absurd hset hclear

end RaisedBy

theorem Invariant.feed {s : State} (h : Invariant s) (bytes : List Byte) :
    Invariant { s with block := feed bytes s.block } := by
  induction bytes generalizing s with
  | nil => exact h
  | cons b bytes ih => exact ih (h.frameByte b)

theorem Invariant.raise_illegalCommand {s : State} (h : Invariant s) :
    Invariant { s with block := raise .illegalCommand s.block } := { h with }

/-- A frame of one word right after reset, its triple BE EF with the checksum byte 0x93 in place of 0x92 (95 2.6), then
one byte too many and an illegal word. -/
def threeErrorsRecorded : State :=
  illegalWord { openedAtReset with block := feed [0xBE, 0xEF, 0x93, 0x00] openedAtReset.block }

theorem invariant_threeErrorsRecorded : Invariant threeErrorsRecorded :=
  (invariant_openedAtReset.feed [0xBE, 0xEF, 0x93, 0x00]).raise_illegalCommand

/-- Settles O38: CMDERR by its writers, OVR and ERR by what a step can do to the frame engine. -/
theorem oneCommandRaisesOneError : Obligations.OneCommandRaisesOneError := by
  refine ⟨fun s t w rest hp h => ?_, threeErrorsRecorded, invariant_threeErrorsRecorded, by decide +kernel⟩
  have hframe := step_frameStep h
  refine ⟨step_raises_cmderr hp h, hframe.raises_overRun hp, fun hclear hset => ?_, fun herr hq => ?_⟩
  · obtain ⟨hbyte, hrun, hcheck, hk⟩ := hframe.raises_checksumError hp hclear hset
    rw [hk]
    exact ⟨hbyte, hrun, hcheck, rfl, rfl, rfl⟩
  · obtain ⟨hkept, -⟩ := hframe.keeps_frameErrors hq
    exact (hkept herr).2

end Sys2Proof.Machine

namespace Sys2Proof.Machine

/-! ## Reset (70_reset_and_hazards.md R190, R191) -/

theorem responds_crcRead (s : State) : Responds .crcRead s (zext16 s.block.crc) := ⟨_, rfl, rfl⟩

/-- Settles O10: the equation of the step on Reset, whose block is the reset block whatever the state held. -/
theorem resetSetsEveryField : Obligations.ResetSetsEveryField := by
  refine ⟨fun s rest hp => step_reset hp, fun s t rest hP hp h => ?_⟩
  cases (step_reset hp).symm.trans h
  exact ⟨rfl, invariant_resetBlock (s := taken s rest) hP, responds_statusRead_of_no_error rfl rfl rfl,
    responds_crcRead _⟩

/-- A stream of CRC_BYTE alone: every word of it is legal and a checksum command. -/
theorem streamOf_crcBytes (P : Params) (bytes : List Byte) :
    streamOf P isCrcCommand (commandInputs (bytes.map .crcByte)) = bytes.map .crcByte := by
  have hwf : ∀ i ∈ bytes.map Instr.crcByte, wellFormed P i = true := List.forall_mem_map.mpr fun _ _ => rfl
  have hcrc : ∀ i ∈ bytes.map Instr.crcByte, isCrcCommand i = true := List.forall_mem_map.mpr fun _ _ => rfl
  rw [streamOf_commandInputs hwf, List.filter_eq_self.mpr hcrc]

/-- CRC_READ last: its word is 0x3000 (R72). -/
theorem commandInputs_append_crcRead (commands : List Instr) (rest : List Input) :
    commandInputs (commands ++ [.crcRead]) ++ rest = commandInputs commands ++ .command 0x3000 :: rest := by
  have hword : encode .crcRead = 0x3000 := rfl
  simp [commandInputs, hword]

theorem not_byteExpected_reset (P : Params) : ¬ ByteExpected (Block.reset P) := by
  rintro (hrun | ⟨herr, -⟩)
  · cases hrun
  · cases herr

/-- Settles O12: reset leaves CRC at the seed, so CRC_INIT may be left out of a checksum stream (R106), and IDLE expects
no frame byte. -/
theorem resetNeedsNoSetup : Obligations.ResetNeedsNoSetup := by
  refine ⟨fun P bytes rest => ?_, fun P b => exec_frameByte_of_eq (frameByte_unexpected (not_byteExpected_reset P))⟩
  obtain ⟨t, hrun, hport, hresp⟩ := checksumStreamRespondsChecksum
    { State.resetWith P with port := commandInputs (bytes.map .crcByte ++ [.crcRead]) ++ rest } _ rest bytes
    (commandInputs_append_crcRead _ rest) (noReset_commandInputs _) (.inr ⟨rfl, streamOf_crcBytes P bytes⟩)
  rw [commandInputs, List.length_map, List.length_map] at hrun
  exact ⟨t, hrun, hresp, hport⟩

/-! ## The result of a complete frame (70_reset_and_hazards.md R196, 41_frame.md R125) -/

/-- Two blocks with the same result: the phase, the index of a mismatch, and what WORD_READ reads (R152). -/
structure SameResult (k l : Block) : Prop where
  phase : k.phase = l.phase
  eidx : k.eidx = l.eidx
  n : k.n = l.n
  wbuf : k.wbuf = l.wbuf

theorem SameResult.refl (k : Block) : SameResult k k := ⟨rfl, rfl, rfl, rfl⟩

section SameResult

variable {k l m : Block}

theorem SameResult.trans (h : SameResult k l) (h' : SameResult l m) : SameResult k m :=
  ⟨h.phase.trans h'.phase, h.eidx.trans h'.eidx, h.n.trans h'.n, h.wbuf.trans h'.wbuf⟩

theorem SameResult.frameComplete (h : SameResult k l) (hl : FrameComplete l) : FrameComplete k := by
  rwa [FrameComplete, h.phase]

theorem SameResult.gatedWord_eq (h : SameResult k l) (i : Byte) : gatedWord k i = gatedWord l i := by
  simp only [gatedWord, readWord, h.phase, h.n, h.wbuf]

end SameResult

theorem drainByte_sameResult (k : Block) : SameResult (drainByte k) k := by
  obtain ⟨-, hk⟩ | ⟨-, hk⟩ := drainByte_cases k <;> exact hk ▸ ⟨rfl, rfl, rfl, rfl⟩

/-- A byte after the frame is complete is drained or an over-run: RUN alone checks and stores. -/
theorem frameByte_sameResult {k : Block} (hk : FrameComplete k) (b : Byte) : SameResult (frameByte b k) k := by
  have hrun : k.phase ≠ .run := by obtain hp | hp := hk <;> simp [hp]
  obtain ⟨-, h⟩ | ⟨-, -, h⟩ | ⟨hp, -⟩ | ⟨hp, -⟩ | ⟨hp, -⟩ | ⟨hp, -⟩ := frameByte_cases b k
  · exact h ▸ ⟨rfl, rfl, rfl, rfl⟩
  · exact h ▸ drainByte_sameResult k
  all_goals exact absurd hp hrun

theorem FrameStep.keeps_result {s : State} {k : Block} (hk : FrameStep s k) (hs : FrameComplete s.block)
    (hq : nextInputIs clearsFrameErrors s = false) : SameResult k s.block := by
  cases hk with
  | reset hp => simp [nextInputIs, hp, clearsFrameErrors] at hq
  | start hp hd | abort hp hd => simp [nextInputIs, hp, clearsFrameErrors, hd] at hq
  | byte => exact frameByte_sameResult hs _
  | other => exact ⟨rfl, rfl, rfl, rfl⟩

/-- Every step of a stream without the three clearing inputs keeps the result, hence also that the frame is complete. -/
theorem run_keeps_result {s : State} {inputs rest : List Input} (hs : FrameComplete s.block)
    (hp : s.port = inputs ++ rest) (hkeep : ∀ x ∈ inputs, clearsFrameErrors s.params x = false) :
    ∃ t, Host.Core.run core inputs.length s = .next t ∧ SameResult t.block s.block := by
  induction inputs generalizing s with
  | nil => exact ⟨s, rfl, .refl _⟩
  | cons x xs ih =>
    obtain ⟨hx, hxs⟩ := List.forall_mem_cons.mp hkeep
    obtain ⟨u, hu⟩ := everyStepAnswersNext s
    have hstep : SameResult u.block s.block := (step_frameStep hu).keeps_result hs (by rwa [nextInputIs, hp])
    obtain ⟨t, hrun, hresult⟩ := ih (hstep.frameComplete hs) (step_port hp hu) (step_keeps_params hu ▸ hxs)
    exact ⟨t, (run_succ_of_step (M := core) hu _).trans hrun, hresult.trans hstep⟩

/-- Settles O46: a run keeps the result, and WORD_READ reads nothing else. -/
theorem completeFrameResultIsFixed : Obligations.CompleteFrameResultIsFixed := by
  intro s inputs rest hs hp hkeep
  obtain ⟨t, hrun, hresult⟩ := run_keeps_result hs hp hkeep
  refine ⟨t, hrun, hresult.phase, hresult.eidx, hresult.n, hresult.wbuf, fun i v ⟨_, hexec, hv⟩ => ?_⟩
  cases (exec_read (i := .wordRead i) rfl s).symm.trans hexec
  exact ⟨_, rfl, (congrArg some (hresult.gatedWord_eq i)).trans hv⟩

end Sys2Proof.Machine

namespace Sys2Proof.Machine

/-! ## An idle port (00_scope.md R7) -/

/-- Settles O5: the equation of the step on an idle port, where `idleStep` ends the last response and writes nothing
else. -/
theorem idlePortChangesNothing : Obligations.IdlePortChangesNothing :=
  fun _ hp => step_idle hp

end Sys2Proof.Machine
